-- ==== Sys2Proof/Word.lean ====
section
/-! DEFINITION. Trits, balanced-ternary words and the integers they denote
(spec 00_scope.md rules R9, R10, R12, R13). Nothing here knows of instructions or of the machine. -/

namespace Sys2Proof

/-- A balanced-ternary digit: N = −1, Z = 0, P = +1 (R9). -/
inductive Trit where
  | N
  | Z
  | P
  deriving DecidableEq, Repr, Inhabited

/-- The integer a trit denotes (R9). -/
def Trit.val : Trit → Int
  | .N => -1
  | .Z => 0
  | .P => 1

/-- `sign(n)`: N below zero, Z at zero, P above zero (R9). -/
def sign (n : Int) : Trit :=
  if n < 0 then .N else if n = 0 then .Z else .P

/-- The trit congruent to `n` modulo 3: the remainder `r` of one step of R12. -/
def lst (n : Int) : Trit :=
  if n % 3 = 0 then .Z else if n % 3 = 1 then .P else .N

/-- `3 ^ i` as an integer. -/
def pow3 (i : Nat) : Int := ((3 ^ i : Nat) : Int)

/-- `(3 ^ w − 1) / 2`, the largest value of a `w`-trit word (R9). -/
def half3 (w : Nat) : Int := (((3 ^ w - 1) / 2 : Nat) : Int)

/-- What is left of `n` after `i` steps of the repeated division of R12: `n / 3 ^ i` to the nearest integer. -/
def quot3 (i : Nat) (n : Int) : Int := (n + half3 i) / pow3 i

/-- Trit `i` of the (unbounded) balanced-ternary expansion of `n` (R12). -/
def digit (i : Nat) (n : Int) : Trit := lst (quot3 i n)

/-- `wrap_w(n)`: the value of the low `w` trits of `n` (R13). -/
def wrap (w : Nat) (n : Int) : Int := (n + half3 w) % pow3 w - half3 w

/-- `carry_w(n) = (n − wrap_w(n)) / 3 ^ w` (R13). -/
def carry (w : Nat) (n : Int) : Int := (n - wrap w n) / pow3 w

/-- `Σ_{k < n} f k × 3 ^ k`: the value of the `n` trits `f 0 … f (n − 1)` (R9, R10). -/
def sumTrits (f : Nat → Trit) : Nat → Int
  | 0 => 0
  | n + 1 => sumTrits f n + (f n).val * pow3 n

/-- A `w`-trit word `T[w]`; entry `i` is trit `t[i]`, `t[0]` the least significant (R9). -/
abbrev Trits (w : Nat) := Vector Trit w

/-- The machine word, address and register: 27 trits (R7). -/
abbrev Word := Trits 27

/-- Trit `i` of a word; a position above the word reads Z, as zero-extension has it (R13). -/
def Trits.get {w : Nat} (x : Trits w) (i : Nat) : Trit := x[i]?.getD .Z

/-- The word whose trit `i` is `f i`. -/
def Trits.ofFn {w : Nat} (f : Nat → Trit) : Trits w := Vector.ofFn fun i => f i.val

/-- `val(x) = Σ t[i] × 3 ^ i` (R9). -/
def Trits.val {w : Nat} (x : Trits w) : Int := sumTrits x.get w

/-- `enc(n, w)`: the low `w` trits of `n`; its value is `n` wherever `n` is in range, and `wrap_w(n)` always (R9, R13). -/
def enc (n : Int) (w : Nat) : Trits w := Trits.ofFn fun i => digit i n

/-- The 27-trit word of an integer, wrapped where the integer is out of range (R13, R14). -/
def word (n : Int) : Word := enc n 27

/-- The word of 27 Z trits, of value 0. -/
def zeroWord : Word := Vector.replicate 27 .Z

/-- `H = (3 ^ 27 − 1) / 2 = 3812798742493`, the largest value of a word (R140). -/
def H : Int := 3812798742493

end Sys2Proof
end

