-- ==== Sys2Proof/Config.lean ====
section
/-! DEFINITION. The values the spec leaves open (spec 93_implementation_defined.md section 1): constants without a
body, so that nothing can be proved of the value they give. The number `n` each of them takes first is
`State.freeCount`, which the step advances at each use, so that two uses need not agree. -/

namespace Sys2Proof

/-- The TFP instructions that interpret a register as T26F (R330–R334, R336, R337). -/
inductive TfpOp where
  | fadd
  | fsub
  | fmul
  | fdiv
  | fcmp
  | fcvti
  | fcvtiz
  deriving DecidableEq, Repr, Inhabited

/-- What `tfp_round` may return: Zero, ∞ or a normal pattern, never NaR (R321). A normal pattern is
`±(mag + 1)`, the integers of magnitude 1 … 2M − 1 (R312). -/
inductive TfpRounded where
  | zero
  | inf
  | normal (negative : Bool) (mag : Fin 1270932914163)
  deriving DecidableEq, Repr, Inhabited

/-- `tget_oob`: the trits of rd after TGET with an index outside 0..26 (R291, D22). -/
opaque Config.tgetOob (n : Nat) (x idx : Word) (i : Nat) : Trit

/-- `tset_oob`: the trits of rd after TSETN/TSETZ/TSETP with an index outside 0..26 (R292, D22). -/
opaque Config.tsetOob (n : Nat) (x idx : Word) (t : Trit) (i : Nat) : Trit

/-- `tfp_round`: the result for an exact rational that no T26F pattern represents; a function of the rational
alone (R321, D25). -/
opaque Config.tfpRound (q : Rat) : TfpRounded

/-- `tfp_non_t26f`: trits 0..26 of the word, then FLAGS.sign and FLAGS.carry, that a TFP instruction writes when an
operand it interprets has t[26] ≠ Z (R320, D25). -/
opaque Config.tfpNonT26f (n : Nat) (op : TfpOp) (a b : Word) (i : Nat) : Trit

/-- `fcvt_invalid`: the trits of rd after FCVTI/FCVTIZ of ∞, NaR or a value beyond ±H (R336, R337, D25). -/
opaque Config.fcvtInvalid (n : Nat) (op : TfpOp) (x : Word) (i : Nat) : Trit

/-- `vshuf_high_lanes`: lanes 9..26 of VSHUF (R385, D41). -/
opaque Config.vshufHighLanes (n : Nat) (x idx : Word) (i : Nat) : Trit

end Sys2Proof
end

