-- ==== Sys2Proof/Syntax.lean ====
section
/-! DEFINITION. Registers, CSR names and instructions of Setnex v0.8 (spec 30_encoding.md; one constructor per
mnemonic of spec/opcode_table.json). Operands stand decoded: register numbers, CSR names, integer immediates.
Trits that an instruction ignores (R123) are kept only where an exception of that instruction writes the raw
instruction word to ETVAL (R129). -/

namespace Sys2Proof

/-- A general register number r0..r26 (R21, R116). -/
abbrev Reg := Fin 27

/-- A vector register number v0..v26 (R24, R116). -/
abbrev VReg := Fin 27

/-- The 27 CSR slots (R28): 19 named ones and the reserved addresses 0 and −7..−13 (R44). -/
inductive Csr where
  | pc
  | lmode
  | flags
  | epc
  | ecause
  | evec
  | status
  | esave
  | etval
  | epc2
  | ecause2
  | esave2
  | etval2
  | mpuSelect
  | mpuBase
  | mpuCfg
  | ipending
  | ienable
  | ipriority
  /-- A reserved slot: `k = 0` is address 0, `k = 1..7` is address `−(6 + k)`. -/
  | reserved (k : Fin 8)
  deriving DecidableEq, Repr

/-- The address of a CSR, −13..+13 (R28). -/
def Csr.address : Csr → Int
  | .pc => 1
  | .lmode => 2
  | .flags => 3
  | .epc => 4
  | .ecause => 5
  | .evec => 6
  | .status => 7
  | .esave => 8
  | .etval => 9
  | .epc2 => 10
  | .ecause2 => 11
  | .esave2 => 12
  | .etval2 => 13
  | .mpuSelect => -1
  | .mpuBase => -2
  | .mpuCfg => -3
  | .ipending => -4
  | .ienable => -5
  | .ipriority => -6
  | .reserved k => if k = 0 then 0 else -(6 + (k.val : Int))

/-- The instructions, in the order of spec/opcode_table.json. Immediates and offsets are the integer values of
their fields (R122); `WellFormed.lean` holds their ranges. -/
inductive Instr where
  /-- R150 -/
  | add (rd rs1 rs2 : Reg)
  /-- R151 -/
  | adds (rd rs1 rs2 : Reg)
  /-- R152 -/
  | adc (rd rs1 rs2 : Reg)
  /-- R153 -/
  | sub (rd rs1 rs2 : Reg)
  /-- R154 -/
  | subs (rd rs1 rs2 : Reg)
  /-- R155 -/
  | sbc (rd rs1 rs2 : Reg)
  /-- R156 -/
  | mul (rd rs1 rs2 : Reg)
  /-- R157 -/
  | mulh (rd rs1 rs2 : Reg)
  /-- The table's ILLEGAL row of the MUL opcode, funct[0] = N (R124); `w` is the raw word. -/
  | illegalMul (w : Word)
  /-- R158 -/
  | div (rd rs1 rs2 : Reg)
  /-- R159 -/
  | mod (rd rs1 rs2 : Reg)
  /-- R160 -/
  | neg (rd rs1 : Reg)
  /-- R182 -/
  | tand (rd rs1 rs2 : Reg)
  /-- R183 -/
  | tor (rd rs1 rs2 : Reg)
  /-- R184 -/
  | tnot (rd rs1 : Reg)
  /-- R185 -/
  | timpl (rd rs1 rs2 : Reg)
  /-- R186 -/
  | cons (rd rs1 rs2 : Reg)
  /-- R187 -/
  | acons (rd rs1 rs2 : Reg)
  /-- R188 -/
  | tshift (rd rs1 rs2 : Reg)
  /-- R189 -/
  | tcmp (rd rs1 rs2 : Reg)
  /-- R210 -/
  | load (rd rs1 : Reg) (imm : Int)
  /-- R211; `rsrc` is the rd field, read as the value stored. -/
  | store (rsrc rs1 : Reg) (imm : Int)
  /-- R212 -/
  | li (rd : Reg) (imm : Int)
  /-- R213 -/
  | lui (rd : Reg) (imm : Int)
  /-- R214 -/
  | addi (rd rs1 : Reg) (imm : Int)
  /-- R241 -/
  | brt3 (rX : Reg) (offZ offN : Int)
  /-- R215 -/
  | cmpi (rs1 : Reg) (imm : Int)
  /-- R231 -/
  | beq (rs1 : Reg) (off : Int)
  /-- R232 -/
  | bne (rs1 : Reg) (off : Int)
  /-- R233 -/
  | blt (rs1 : Reg) (off : Int)
  /-- R234 -/
  | bgt (rs1 : Reg) (off : Int)
  /-- R235 -/
  | ble (rs1 : Reg) (off : Int)
  /-- R236 -/
  | bge (rs1 : Reg) (off : Int)
  /-- R237 -/
  | jmpa (rs1 : Reg) (off : Int)
  /-- R239; the mask trits t[4], t[5], t[6] test FLAGS.sign for N, Z, P. -/
  | bf (mN mZ mP : Trit) (off : Int)
  /-- R242 -/
  | jmp (off : Int)
  /-- R243 -/
  | call (off : Int)
  /-- R260; `ignLo` = t[7..9] and `ignHi` = t[13..26] are ignored but stand in the raw word. -/
  | csrr (rd : Reg) (csr : Csr) (ignLo : Trits 3) (ignHi : Trits 14)
  /-- R261; `ignLo` = t[4..6] and `ignHi` = t[13..26] are ignored but stand in the raw word. -/
  | csrw (csr : Csr) (rs1 : Reg) (ignLo : Trits 3) (ignHi : Trits 14)
  /-- R262; `ignHi` = t[13..26] is ignored but stands in the raw word. -/
  | csrx (rd rs1 : Reg) (csr : Csr) (ignHi : Trits 14)
  /-- R263, flavor tag Z -/
  | ecall
  /-- R263, flavor tag P -/
  | hcall
  /-- R263, flavor tag N -/
  | dbgbrk
  /-- R264 -/
  | iret
  /-- R290; `rn`, `rz`, `rp` are the rs1, rs2 and funct[0..2] fields. -/
  | tsel (rd rn rz rp : Reg)
  /-- R265 -/
  | nop
  /-- R266 -/
  | halt
  /-- R291 -/
  | tget (rd rs1 rs2 : Reg)
  /-- R292, inserted trit N -/
  | tsetn (rd rs1 rs2 : Reg)
  /-- R292, inserted trit Z -/
  | tsetz (rd rs1 rs2 : Reg)
  /-- R292, inserted trit P -/
  | tsetp (rd rs1 rs2 : Reg)
  /-- R293 -/
  | tsign (rd rs1 : Reg)
  /-- R294 -/
  | cmp (rs1 rs2 : Reg)
  /-- R295 -/
  | tabs (rd rs1 : Reg)
  /-- R296 -/
  | tmin (rd rs1 : Reg)
  /-- R297 -/
  | tmax (rd rs1 : Reg)
  /-- R330 -/
  | fadd (rd rs1 rs2 : Reg)
  /-- R331 -/
  | fsub (rd rs1 rs2 : Reg)
  /-- R332 -/
  | fmul (rd rs1 rs2 : Reg)
  /-- R333 -/
  | fdiv (rd rs1 rs2 : Reg)
  /-- R334 -/
  | fcmp (rs1 rs2 : Reg)
  /-- R335 -/
  | ficvt (rd rs1 : Reg)
  /-- R336 -/
  | fcvti (rd rs1 : Reg)
  /-- R337 -/
  | fcvtiz (rd rs1 : Reg)
  /-- R360 -/
  | vadd (vd vs1 vs2 : VReg)
  /-- R361 -/
  | vsub (vd vs1 vs2 : VReg)
  /-- The table's ILLEGAL row of the VADD opcode, funct[0] = P (R124); `w` is the raw word. -/
  | illegalVadd (w : Word)
  /-- R362 -/
  | vmul (vd vs1 vs2 : VReg)
  /-- R363 -/
  | vand (vd vs1 vs2 : VReg)
  /-- R364 -/
  | vor (vd vs1 vs2 : VReg)
  /-- R365 -/
  | vimpl (vd vs1 vs2 : VReg)
  /-- R366 -/
  | vnot (vd vs1 : VReg)
  /-- R367 -/
  | vcons (vd vs1 vs2 : VReg)
  /-- R368 -/
  | vacons (vd vs1 vs2 : VReg)
  /-- The table's 21 ILLEGAL rows of the VLOG opcode (R124); `w` is the raw word. -/
  | illegalVlog (w : Word)
  /-- R369; `vm` is the funct[0..2] field. -/
  | vsel (vd vs1 vs2 vm : VReg)
  /-- R370 -/
  | vcmp (vd vs1 vs2 : VReg)
  /-- R371 -/
  | vredSum (rd : Reg) (vs1 : VReg)
  /-- R372 -/
  | vredSign (rd : Reg) (vs1 : VReg)
  /-- R373 -/
  | vredCons (rd : Reg) (vs1 : VReg)
  /-- R374 -/
  | vredLst (rd : Reg) (vs1 : VReg)
  /-- R375 -/
  | vredMst (rd : Reg) (vs1 : VReg)
  /-- R376 -/
  | vredAnd (rd : Reg) (vs1 : VReg)
  /-- R377 -/
  | vredOr (rd : Reg) (vs1 : VReg)
  /-- The table's 20 ILLEGAL rows of the VRED opcode (R124); `w` is the raw word. -/
  | illegalVred (w : Word)
  /-- R380 -/
  | vrotl (vd vs1 vs2 : VReg)
  /-- R381 -/
  | vrotr (vd vs1 vs2 : VReg)
  /-- R382 -/
  | vshl (vd vs1 vs2 : VReg)
  /-- R383 -/
  | vshr (vd vs1 vs2 : VReg)
  /-- R384 -/
  | vrev (vd vs1 : VReg)
  /-- R385 -/
  | vshuf (vd vs1 vs2 : VReg)
  /-- The table's 21 ILLEGAL rows of the VPERM opcode (R124); `w` is the raw word. -/
  | illegalVperm (w : Word)
  /-- R401 -/
  | vmovGv (vd : VReg) (rs1 : Reg)
  /-- R402 -/
  | vmovVg (rd : Reg) (vs1 : VReg)
  /-- R403 -/
  | vmovVv (vd vs1 : VReg)
  /-- R404 -/
  | vbcast (vd : VReg) (rs1 : Reg)
  /-- R405; `ignLo` = t[10..12] and `ignHi` = t[19..26] are ignored but stand in the raw word. -/
  | vins (vd : VReg) (rs1 : Reg) (lane : Int) (ignLo : Trits 3) (ignHi : Trits 8)
  /-- R406; `ignLo` = t[10..12] and `ignHi` = t[19..26] are ignored but stand in the raw word. -/
  | vext (rd : Reg) (vs1 : VReg) (lane : Int) (ignLo : Trits 3) (ignHi : Trits 8)
  /-- The table's 21 ILLEGAL rows of the VMOVE opcode (R124); `w` is the raw word. -/
  | illegalVmove (w : Word)
  /-- The table's RESERVED rows −20, −19, +14, +23, +24 (R125); `w` is the raw word. -/
  | reservedOpcode (w : Word)
  /-- The table's RESERVED rows +25..+40, the custom opcodes (R126); `w` is the raw word. -/
  | customOpcode (w : Word)
  deriving DecidableEq, Repr

end Sys2Proof
end

