-- ==== Sys2Proof/WellFormed.lean ====
section
/-! DEFINITION. Which instruction terms an encoding exists for: the ranges of the immediates and offsets (R115,
R117, R118, R119), of the VINS/VEXT lane field (R407), and the raw words of the illegal and reserved rows
(R124, R125, R126). Register numbers and CSR names need no check: every value of their types has a field (R116, R28). -/

namespace Sys2Proof

/-- `lo ≤ n ≤ hi`, as a Bool. -/
def inRange (lo hi n : Int) : Bool := decide (lo ≤ n) && decide (n ≤ hi)

/-- The primary opcode of a word, `val(t[3:0])` (R112). -/
def opcodeOf (w : Word) : Int := sumTrits w.get 4

/-- The words of a funct[0..2] selector that VLOG, VPERM and VMOVE assign (R121). -/
def sixSelectors (a b c : Trit) : Bool :=
  [(Trit.Z, Trit.Z, Trit.Z), (.P, .Z, .Z), (.Z, .P, .Z), (.P, .P, .Z), (.Z, .Z, .P), (.P, .Z, .P)].contains (a, b, c)

/-- The selectors that VRED assigns: the six and `ZPP` (R121). -/
def sevenSelectors (a b c : Trit) : Bool :=
  sixSelectors a b c || ((a, b, c) == (Trit.Z, Trit.P, Trit.P))

/-- Whether an instruction term has an encoding. -/
def Instr.wf : Instr → Bool
  | .add _ _ _ | .adds _ _ _ | .adc _ _ _ | .sub _ _ _ | .subs _ _ _ | .sbc _ _ _ => true
  | .mul _ _ _ | .mulh _ _ _ | .div _ _ _ | .mod _ _ _ | .neg _ _ => true
  | .illegalMul w => opcodeOf w == -38 && w.get 13 == .N
  | .tand _ _ _ | .tor _ _ _ | .tnot _ _ | .timpl _ _ _ => true
  | .cons _ _ _ | .acons _ _ _ | .tshift _ _ _ | .tcmp _ _ _ => true
  | .load _ _ imm | .store _ _ imm | .addi _ _ imm => inRange (-64570081) 64570081 imm
  | .li _ imm | .lui _ imm | .cmpi _ imm => inRange (-64570081) 64570081 imm
  | .brt3 _ offZ offN => inRange (-29524) 29524 offZ && inRange (-29524) 29524 offN
  | .beq _ off | .bne _ off | .blt _ off | .bgt _ off | .ble _ off | .bge _ off | .jmpa _ off =>
    inRange (-1743392200) 1743392200 off
  | .bf _ _ _ off => inRange (-1743392200) 1743392200 off
  | .jmp off | .call off => inRange (-47071589413) 47071589413 off
  | .csrr _ _ _ _ | .csrw _ _ _ _ | .csrx _ _ _ _ | .ecall | .hcall | .dbgbrk | .iret => true
  | .tsel _ _ _ _ | .nop | .halt | .tget _ _ _ | .tsetn _ _ _ | .tsetz _ _ _ | .tsetp _ _ _ => true
  | .tsign _ _ | .cmp _ _ | .tabs _ _ | .tmin _ _ | .tmax _ _ => true
  | .fadd _ _ _ | .fsub _ _ _ | .fmul _ _ _ | .fdiv _ _ _ | .fcmp _ _ => true
  | .ficvt _ _ | .fcvti _ _ | .fcvtiz _ _ => true
  | .vadd _ _ _ | .vsub _ _ _ | .vmul _ _ _ => true
  | .illegalVadd w => opcodeOf w == 15 && w.get 13 == .P
  | .vand _ _ _ | .vor _ _ _ | .vimpl _ _ _ | .vnot _ _ | .vcons _ _ _ | .vacons _ _ _ => true
  | .illegalVlog w => opcodeOf w == 17 && !sixSelectors (w.get 13) (w.get 14) (w.get 15)
  | .vsel _ _ _ _ | .vcmp _ _ _ => true
  | .vredSum _ _ | .vredSign _ _ | .vredCons _ _ | .vredLst _ _ | .vredMst _ _ | .vredAnd _ _ | .vredOr _ _ => true
  | .illegalVred w => opcodeOf w == 20 && !sevenSelectors (w.get 13) (w.get 14) (w.get 15)
  | .vrotl _ _ _ | .vrotr _ _ _ | .vshl _ _ _ | .vshr _ _ _ | .vrev _ _ | .vshuf _ _ _ => true
  | .illegalVperm w => opcodeOf w == 21 && !sixSelectors (w.get 13) (w.get 14) (w.get 15)
  | .vmovGv _ _ | .vmovVg _ _ | .vmovVv _ _ | .vbcast _ _ => true
  | .vins _ _ lane _ _ | .vext _ _ lane _ _ => inRange (-13) 13 lane
  | .illegalVmove w => opcodeOf w == 22 && !sixSelectors (w.get 13) (w.get 14) (w.get 15)
  | .reservedOpcode w => [-20, -19, 14, 23, 24].contains (opcodeOf w)
  | .customOpcode w => inRange 25 40 (opcodeOf w)

end Sys2Proof
end

