-- ==== Sys2Proof/Decode.lean ====
section
/-! DEFINITION. The decoder of a 27-trit instruction word (R110–R130, R407) and the encoder beside it.
Decoding is total: every word is one instruction, an illegal row or a reserved row (R130, R134). -/

namespace Sys2Proof

/-! ### Fields -/

/-- `val(w[lo + len − 1 : lo])`: the balanced value of a field (R10). -/
def Trits.field {n : Nat} (w : Trits n) (lo len : Nat) : Int := sumTrits (fun k => w.get (lo + k)) len

/-- The trits `w[lo + len − 1 : lo]` themselves. -/
def Trits.slice {n : Nat} (w : Trits n) (lo len : Nat) : Trits len := Trits.ofFn fun k => w.get (lo + k)

/-- `reg(f) = f mod 27`: the register a 3-trit field value names (R116). -/
def regOfField (f : Int) : Fin 27 := Fin.ofNat 27 (f % 27).toNat

/-- The field value that names register `r`: `r` up to 13, `r − 27` from 14 on (R116). -/
def fieldOfReg (r : Fin 27) : Int := if r.val ≤ 13 then (r.val : Int) else (r.val : Int) - 27

/-- The register named by the 3 trits of `w` from `lo` on (R116). -/
def Trits.regAt (w : Word) (lo : Nat) : Fin 27 := regOfField (w.field lo 3)

/-- The CSR at an address; −7..−13 and 0 are the reserved slots (R28, R44). -/
def csrOfAddress (a : Int) : Csr :=
  if a = 1 then .pc else if a = 2 then .lmode else if a = 3 then .flags
  else if a = 4 then .epc else if a = 5 then .ecause else if a = 6 then .evec
  else if a = 7 then .status else if a = 8 then .esave else if a = 9 then .etval
  else if a = 10 then .epc2 else if a = 11 then .ecause2 else if a = 12 then .esave2
  else if a = 13 then .etval2
  else if a = -1 then .mpuSelect else if a = -2 then .mpuBase else if a = -3 then .mpuCfg
  else if a = -4 then .ipending else if a = -5 then .ienable else if a = -6 then .ipriority
  else if a = 0 then .reserved 0 else .reserved (Fin.ofNat 8 (-(a + 6)).toNat)

/-- The CSR that `t[10..12]` names (R259). -/
def Trits.csrAt (w : Word) : Csr := csrOfAddress (w.field 10 3)

/-- Three trits of a selector (R121). -/
abbrev Selector := Trit × Trit × Trit

/-- funct[0..2] = t[13..15], funct[0] first (R114). -/
def Trits.selector (w : Word) : Selector := (w.get 13, w.get 14, w.get 15)

/-! ### The opcodes with a selector (R121, R124) -/

/-- Opcode −40: ADDS / ADD / ADC by funct[0]. -/
def decodeAdd (w : Word) : Instr :=
  match w.get 13 with
  | .N => .adds (w.regAt 4) (w.regAt 7) (w.regAt 10)
  | .Z => .add (w.regAt 4) (w.regAt 7) (w.regAt 10)
  | .P => .adc (w.regAt 4) (w.regAt 7) (w.regAt 10)

/-- Opcode −39: SUBS / SUB / SBC by funct[0]. -/
def decodeSub (w : Word) : Instr :=
  match w.get 13 with
  | .N => .subs (w.regAt 4) (w.regAt 7) (w.regAt 10)
  | .Z => .sub (w.regAt 4) (w.regAt 7) (w.regAt 10)
  | .P => .sbc (w.regAt 4) (w.regAt 7) (w.regAt 10)

/-- Opcode −38: MUL / MULH by funct[0]; N is unassigned. -/
def decodeMul (w : Word) : Instr :=
  match w.get 13 with
  | .N => .illegalMul w
  | .Z => .mul (w.regAt 4) (w.regAt 7) (w.regAt 10)
  | .P => .mulh (w.regAt 4) (w.regAt 7) (w.regAt 10)

/-- Opcode −4: the ECALL flavors by imm17[0] = t[10] (R263). -/
def decodeEcall (w : Word) : Instr :=
  match w.get 10 with
  | .N => .dbgbrk
  | .Z => .ecall
  | .P => .hcall

/-- Opcode +2: TSETN / TSETZ / TSETP by funct[0] (R292). -/
def decodeTset (w : Word) : Instr :=
  match w.get 13 with
  | .N => .tsetn (w.regAt 4) (w.regAt 7) (w.regAt 10)
  | .Z => .tsetz (w.regAt 4) (w.regAt 7) (w.regAt 10)
  | .P => .tsetp (w.regAt 4) (w.regAt 7) (w.regAt 10)

/-- Opcode +13: FCVTIZ / FICVT / FCVTI by funct[0] (R335, R336, R337). -/
def decodeFcvt (w : Word) : Instr :=
  match w.get 13 with
  | .N => .fcvtiz (w.regAt 4) (w.regAt 7)
  | .Z => .ficvt (w.regAt 4) (w.regAt 7)
  | .P => .fcvti (w.regAt 4) (w.regAt 7)

/-- Opcode +15: VSUB / VADD by funct[0]; P is unassigned. -/
def decodeVadd (w : Word) : Instr :=
  match w.get 13 with
  | .N => .vsub (w.regAt 4) (w.regAt 7) (w.regAt 10)
  | .Z => .vadd (w.regAt 4) (w.regAt 7) (w.regAt 10)
  | .P => .illegalVadd w

/-- Opcode +17, VLOG, by funct[0..2]. -/
def decodeVlog (w : Word) : Instr :=
  match w.selector with
  | (.Z, .Z, .Z) => .vand (w.regAt 4) (w.regAt 7) (w.regAt 10)
  | (.P, .Z, .Z) => .vor (w.regAt 4) (w.regAt 7) (w.regAt 10)
  | (.Z, .P, .Z) => .vimpl (w.regAt 4) (w.regAt 7) (w.regAt 10)
  | (.P, .P, .Z) => .vnot (w.regAt 4) (w.regAt 7)
  | (.Z, .Z, .P) => .vcons (w.regAt 4) (w.regAt 7) (w.regAt 10)
  | (.P, .Z, .P) => .vacons (w.regAt 4) (w.regAt 7) (w.regAt 10)
  | _ => .illegalVlog w

/-- Opcode +20, VRED, by funct[0..2]. -/
def decodeVred (w : Word) : Instr :=
  match w.selector with
  | (.Z, .Z, .Z) => .vredSum (w.regAt 4) (w.regAt 7)
  | (.P, .Z, .Z) => .vredSign (w.regAt 4) (w.regAt 7)
  | (.Z, .P, .Z) => .vredCons (w.regAt 4) (w.regAt 7)
  | (.P, .P, .Z) => .vredLst (w.regAt 4) (w.regAt 7)
  | (.Z, .Z, .P) => .vredMst (w.regAt 4) (w.regAt 7)
  | (.P, .Z, .P) => .vredAnd (w.regAt 4) (w.regAt 7)
  | (.Z, .P, .P) => .vredOr (w.regAt 4) (w.regAt 7)
  | _ => .illegalVred w

/-- Opcode +21, VPERM, by funct[0..2]. -/
def decodeVperm (w : Word) : Instr :=
  match w.selector with
  | (.Z, .Z, .Z) => .vrotl (w.regAt 4) (w.regAt 7) (w.regAt 10)
  | (.P, .Z, .Z) => .vrotr (w.regAt 4) (w.regAt 7) (w.regAt 10)
  | (.Z, .P, .Z) => .vshl (w.regAt 4) (w.regAt 7) (w.regAt 10)
  | (.P, .P, .Z) => .vshr (w.regAt 4) (w.regAt 7) (w.regAt 10)
  | (.Z, .Z, .P) => .vrev (w.regAt 4) (w.regAt 7)
  | (.P, .Z, .P) => .vshuf (w.regAt 4) (w.regAt 7) (w.regAt 10)
  | _ => .illegalVperm w

/-- Opcode +22, VMOVE, by funct[0..2]; the lane index of VINS and VEXT is funct[3..5] (R400, R407). -/
def decodeVmove (w : Word) : Instr :=
  match w.selector with
  | (.Z, .Z, .Z) => .vmovGv (w.regAt 4) (w.regAt 7)
  | (.P, .Z, .Z) => .vmovVg (w.regAt 4) (w.regAt 7)
  | (.Z, .P, .Z) => .vmovVv (w.regAt 4) (w.regAt 7)
  | (.P, .P, .Z) => .vbcast (w.regAt 4) (w.regAt 7)
  | (.Z, .Z, .P) => .vins (w.regAt 4) (w.regAt 7) (w.field 16 3) (w.slice 10 3) (w.slice 19 8)
  | (.P, .Z, .P) => .vext (w.regAt 4) (w.regAt 7) (w.field 16 3) (w.slice 10 3) (w.slice 19 8)
  | _ => .illegalVmove w

/-! ### The decoder (R130): one line per opcode of the map of R120, by its trits t[0..3] -/

/-- The instruction a word holds. -/
def decode (w : Word) : Instr :=
  match w.get 0, w.get 1, w.get 2, w.get 3 with
  | .N, .N, .N, .N => decodeAdd w                                                   -- −40
  | .Z, .N, .N, .N => decodeSub w                                                   -- −39
  | .P, .N, .N, .N => decodeMul w                                                   -- −38
  | .N, .Z, .N, .N => .div (w.regAt 4) (w.regAt 7) (w.regAt 10)                     -- −37
  | .Z, .Z, .N, .N => .mod (w.regAt 4) (w.regAt 7) (w.regAt 10)                     -- −36
  | .P, .Z, .N, .N => .neg (w.regAt 4) (w.regAt 7)                                  -- −35
  | .N, .P, .N, .N => .tand (w.regAt 4) (w.regAt 7) (w.regAt 10)                    -- −34
  | .Z, .P, .N, .N => .tor (w.regAt 4) (w.regAt 7) (w.regAt 10)                     -- −33
  | .P, .P, .N, .N => .tnot (w.regAt 4) (w.regAt 7)                                 -- −32
  | .N, .N, .Z, .N => .timpl (w.regAt 4) (w.regAt 7) (w.regAt 10)                   -- −31
  | .Z, .N, .Z, .N => .cons (w.regAt 4) (w.regAt 7) (w.regAt 10)                    -- −30
  | .P, .N, .Z, .N => .acons (w.regAt 4) (w.regAt 7) (w.regAt 10)                   -- −29
  | .N, .Z, .Z, .N => .tshift (w.regAt 4) (w.regAt 7) (w.regAt 10)                  -- −28
  | .Z, .Z, .Z, .N => .tcmp (w.regAt 4) (w.regAt 7) (w.regAt 10)                    -- −27
  | .P, .Z, .Z, .N => .load (w.regAt 4) (w.regAt 7) (w.field 10 17)                 -- −26
  | .N, .P, .Z, .N => .store (w.regAt 4) (w.regAt 7) (w.field 10 17)                -- −25
  | .Z, .P, .Z, .N => .li (w.regAt 4) (w.field 10 17)                               -- −24
  | .P, .P, .Z, .N => .lui (w.regAt 4) (w.field 10 17)                              -- −23
  | .N, .N, .P, .N => .addi (w.regAt 4) (w.regAt 7) (w.field 10 17)                 -- −22
  | .Z, .N, .P, .N => .brt3 (w.regAt 4) (w.field 7 10) (w.field 17 10)              -- −21
  | .P, .N, .P, .N => .reservedOpcode w                                             -- −20
  | .N, .Z, .P, .N => .reservedOpcode w                                             -- −19
  | .Z, .Z, .P, .N => .cmpi (w.regAt 7) (w.field 10 17)                             -- −18
  | .P, .Z, .P, .N => .beq (w.regAt 4) (w.field 7 20)                               -- −17
  | .N, .P, .P, .N => .bne (w.regAt 4) (w.field 7 20)                               -- −16
  | .Z, .P, .P, .N => .blt (w.regAt 4) (w.field 7 20)                               -- −15
  | .P, .P, .P, .N => .bgt (w.regAt 4) (w.field 7 20)                               -- −14
  | .N, .N, .N, .Z => .ble (w.regAt 4) (w.field 7 20)                               -- −13
  | .Z, .N, .N, .Z => .bge (w.regAt 4) (w.field 7 20)                               -- −12
  | .P, .N, .N, .Z => .jmpa (w.regAt 4) (w.field 7 20)                              -- −11
  | .N, .Z, .N, .Z => .bf (w.get 4) (w.get 5) (w.get 6) (w.field 7 20)              -- −10
  | .Z, .Z, .N, .Z => .jmp (w.field 4 23)                                           -- −9
  | .P, .Z, .N, .Z => .call (w.field 4 23)                                          -- −8
  | .N, .P, .N, .Z => .csrr (w.regAt 4) w.csrAt (w.slice 7 3) (w.slice 13 14)       -- −7
  | .Z, .P, .N, .Z => .csrw w.csrAt (w.regAt 7) (w.slice 4 3) (w.slice 13 14)       -- −6
  | .P, .P, .N, .Z => .csrx (w.regAt 4) (w.regAt 7) w.csrAt (w.slice 13 14)         -- −5
  | .N, .N, .Z, .Z => decodeEcall w                                                 -- −4
  | .Z, .N, .Z, .Z => .iret                                                         -- −3
  | .P, .N, .Z, .Z => .tsel (w.regAt 4) (w.regAt 7) (w.regAt 10) (w.regAt 13)       -- −2
  | .N, .Z, .Z, .Z => .nop                                                          -- −1
  | .Z, .Z, .Z, .Z => .halt                                                         -- 0
  | .P, .Z, .Z, .Z => .tget (w.regAt 4) (w.regAt 7) (w.regAt 10)                    -- +1
  | .N, .P, .Z, .Z => decodeTset w                                                  -- +2
  | .Z, .P, .Z, .Z => .tsign (w.regAt 4) (w.regAt 7)                                -- +3
  | .P, .P, .Z, .Z => .cmp (w.regAt 7) (w.regAt 10)                                 -- +4
  | .N, .N, .P, .Z => .tabs (w.regAt 4) (w.regAt 7)                                 -- +5
  | .Z, .N, .P, .Z => .tmin (w.regAt 4) (w.regAt 7)                                 -- +6
  | .P, .N, .P, .Z => .tmax (w.regAt 4) (w.regAt 7)                                 -- +7
  | .N, .Z, .P, .Z => .fadd (w.regAt 4) (w.regAt 7) (w.regAt 10)                    -- +8
  | .Z, .Z, .P, .Z => .fsub (w.regAt 4) (w.regAt 7) (w.regAt 10)                    -- +9
  | .P, .Z, .P, .Z => .fmul (w.regAt 4) (w.regAt 7) (w.regAt 10)                    -- +10
  | .N, .P, .P, .Z => .fdiv (w.regAt 4) (w.regAt 7) (w.regAt 10)                    -- +11
  | .Z, .P, .P, .Z => .fcmp (w.regAt 7) (w.regAt 10)                                -- +12
  | .P, .P, .P, .Z => decodeFcvt w                                                  -- +13
  | .N, .N, .N, .P => .reservedOpcode w                                             -- +14
  | .Z, .N, .N, .P => decodeVadd w                                                  -- +15
  | .P, .N, .N, .P => .vmul (w.regAt 4) (w.regAt 7) (w.regAt 10)                    -- +16
  | .N, .Z, .N, .P => decodeVlog w                                                  -- +17
  | .Z, .Z, .N, .P => .vsel (w.regAt 4) (w.regAt 7) (w.regAt 10) (w.regAt 13)       -- +18
  | .P, .Z, .N, .P => .vcmp (w.regAt 4) (w.regAt 7) (w.regAt 10)                    -- +19
  | .N, .P, .N, .P => decodeVred w                                                  -- +20
  | .Z, .P, .N, .P => decodeVperm w                                                 -- +21
  | .P, .P, .N, .P => decodeVmove w                                                 -- +22
  | .N, .N, .Z, .P => .reservedOpcode w                                             -- +23
  | .Z, .N, .Z, .P => .reservedOpcode w                                             -- +24
  | .P, .N, .Z, .P | .N, .Z, .Z, .P | .Z, .Z, .Z, .P | .P, .Z, .Z, .P => .customOpcode w    -- +25..+28
  | .N, .P, .Z, .P | .Z, .P, .Z, .P | .P, .P, .Z, .P | .N, .N, .P, .P => .customOpcode w    -- +29..+32
  | .Z, .N, .P, .P | .P, .N, .P, .P | .N, .Z, .P, .P | .Z, .Z, .P, .P => .customOpcode w    -- +33..+36
  | .P, .Z, .P, .P | .N, .P, .P, .P | .Z, .P, .P, .P | .P, .P, .P, .P => .customOpcode w    -- +37..+40

/-! ### The encoder -/

/-- The `w` trits of an integer, least significant first (R12). -/
def intTrits (w : Nat) (n : Int) : List Trit := (List.range w).map fun i => digit i n

/-- The 3-trit field of a register (R116). -/
def regTrits (r : Fin 27) : List Trit := intTrits 3 (fieldOfReg r)

/-- The trits of a stored slice, least significant first. -/
def Trits.list {n : Nat} (x : Trits n) : List Trit := (List.range n).map x.get

/-- A word from its fields in the order t[0] upward; the rest is Z, as assemblers emit it (R111, R123). -/
def assemble (fields : List (List Trit)) : Word := Trits.ofFn fun i => fields.flatten.getD i .Z

/-- R format (R114): opcode, rd, rs1, rs2, then the used low trits of funct. -/
def encR (op : List Trit) (rd rs1 rs2 : Fin 27) (funct : List Trit) : Word :=
  assemble [op, regTrits rd, regTrits rs1, regTrits rs2, funct]

/-- I format (R115): opcode, rd, rs1, imm17. -/
def encI (op : List Trit) (rd rs1 : Reg) (imm : Int) : Word :=
  assemble [op, regTrits rd, regTrits rs1, intTrits 17 imm]

/-- J format (R117): opcode, rs1, offset20. -/
def encJ (op : List Trit) (rs1 : Reg) (off : Int) : Word := assemble [op, regTrits rs1, intTrits 20 off]

/-- U format (R118): opcode, offset23. -/
def encU (op : List Trit) (off : Int) : Word := assemble [op, intTrits 23 off]

/-- The word of an instruction; unused fields are Z, kept ignored trits stand as they are (R113–R123). -/
def encode : Instr → Word
  | .add rd rs1 rs2 => encR [.N, .N, .N, .N] rd rs1 rs2 [.Z]
  | .adds rd rs1 rs2 => encR [.N, .N, .N, .N] rd rs1 rs2 [.N]
  | .adc rd rs1 rs2 => encR [.N, .N, .N, .N] rd rs1 rs2 [.P]
  | .sub rd rs1 rs2 => encR [.Z, .N, .N, .N] rd rs1 rs2 [.Z]
  | .subs rd rs1 rs2 => encR [.Z, .N, .N, .N] rd rs1 rs2 [.N]
  | .sbc rd rs1 rs2 => encR [.Z, .N, .N, .N] rd rs1 rs2 [.P]
  | .mul rd rs1 rs2 => encR [.P, .N, .N, .N] rd rs1 rs2 [.Z]
  | .mulh rd rs1 rs2 => encR [.P, .N, .N, .N] rd rs1 rs2 [.P]
  | .illegalMul w => w
  | .div rd rs1 rs2 => encR [.N, .Z, .N, .N] rd rs1 rs2 []
  | .mod rd rs1 rs2 => encR [.Z, .Z, .N, .N] rd rs1 rs2 []
  | .neg rd rs1 => encR [.P, .Z, .N, .N] rd rs1 0 []
  | .tand rd rs1 rs2 => encR [.N, .P, .N, .N] rd rs1 rs2 []
  | .tor rd rs1 rs2 => encR [.Z, .P, .N, .N] rd rs1 rs2 []
  | .tnot rd rs1 => encR [.P, .P, .N, .N] rd rs1 0 []
  | .timpl rd rs1 rs2 => encR [.N, .N, .Z, .N] rd rs1 rs2 []
  | .cons rd rs1 rs2 => encR [.Z, .N, .Z, .N] rd rs1 rs2 []
  | .acons rd rs1 rs2 => encR [.P, .N, .Z, .N] rd rs1 rs2 []
  | .tshift rd rs1 rs2 => encR [.N, .Z, .Z, .N] rd rs1 rs2 []
  | .tcmp rd rs1 rs2 => encR [.Z, .Z, .Z, .N] rd rs1 rs2 []
  | .load rd rs1 imm => encI [.P, .Z, .Z, .N] rd rs1 imm
  | .store rsrc rs1 imm => encI [.N, .P, .Z, .N] rsrc rs1 imm
  | .li rd imm => encI [.Z, .P, .Z, .N] rd 0 imm
  | .lui rd imm => encI [.P, .P, .Z, .N] rd 0 imm
  | .addi rd rs1 imm => encI [.N, .N, .P, .N] rd rs1 imm
  | .brt3 rX offZ offN => assemble [[.Z, .N, .P, .N], regTrits rX, intTrits 10 offZ, intTrits 10 offN]
  | .cmpi rs1 imm => encI [.Z, .Z, .P, .N] 0 rs1 imm
  | .beq rs1 off => encJ [.P, .Z, .P, .N] rs1 off
  | .bne rs1 off => encJ [.N, .P, .P, .N] rs1 off
  | .blt rs1 off => encJ [.Z, .P, .P, .N] rs1 off
  | .bgt rs1 off => encJ [.P, .P, .P, .N] rs1 off
  | .ble rs1 off => encJ [.N, .N, .N, .Z] rs1 off
  | .bge rs1 off => encJ [.Z, .N, .N, .Z] rs1 off
  | .jmpa rs1 off => encJ [.P, .N, .N, .Z] rs1 off
  | .bf mN mZ mP off => assemble [[.N, .Z, .N, .Z], [mN, mZ, mP], intTrits 20 off]
  | .jmp off => encU [.Z, .Z, .N, .Z] off
  | .call off => encU [.P, .Z, .N, .Z] off
  | .csrr rd csr ignLo ignHi =>
    assemble [[.N, .P, .N, .Z], regTrits rd, ignLo.list, intTrits 3 csr.address, ignHi.list]
  | .csrw csr rs1 ignLo ignHi =>
    assemble [[.Z, .P, .N, .Z], ignLo.list, regTrits rs1, intTrits 3 csr.address, ignHi.list]
  | .csrx rd rs1 csr ignHi =>
    assemble [[.P, .P, .N, .Z], regTrits rd, regTrits rs1, intTrits 3 csr.address, ignHi.list]
  | .ecall => encI [.N, .N, .Z, .Z] 0 0 0
  | .hcall => encI [.N, .N, .Z, .Z] 0 0 1
  | .dbgbrk => encI [.N, .N, .Z, .Z] 0 0 (-1)
  | .iret => encR [.Z, .N, .Z, .Z] 0 0 0 []
  | .tsel rd rn rz rp => encR [.P, .N, .Z, .Z] rd rn rz (regTrits rp)
  | .nop => encR [.N, .Z, .Z, .Z] 0 0 0 []
  | .halt => encR [.Z, .Z, .Z, .Z] 0 0 0 []
  | .tget rd rs1 rs2 => encR [.P, .Z, .Z, .Z] rd rs1 rs2 []
  | .tsetn rd rs1 rs2 => encR [.N, .P, .Z, .Z] rd rs1 rs2 [.N]
  | .tsetz rd rs1 rs2 => encR [.N, .P, .Z, .Z] rd rs1 rs2 [.Z]
  | .tsetp rd rs1 rs2 => encR [.N, .P, .Z, .Z] rd rs1 rs2 [.P]
  | .tsign rd rs1 => encR [.Z, .P, .Z, .Z] rd rs1 0 []
  | .cmp rs1 rs2 => encR [.P, .P, .Z, .Z] 0 rs1 rs2 []
  | .tabs rd rs1 => encR [.N, .N, .P, .Z] rd rs1 0 []
  | .tmin rd rs1 => encR [.Z, .N, .P, .Z] rd rs1 0 []
  | .tmax rd rs1 => encR [.P, .N, .P, .Z] rd rs1 0 []
  | .fadd rd rs1 rs2 => encR [.N, .Z, .P, .Z] rd rs1 rs2 []
  | .fsub rd rs1 rs2 => encR [.Z, .Z, .P, .Z] rd rs1 rs2 []
  | .fmul rd rs1 rs2 => encR [.P, .Z, .P, .Z] rd rs1 rs2 []
  | .fdiv rd rs1 rs2 => encR [.N, .P, .P, .Z] rd rs1 rs2 []
  | .fcmp rs1 rs2 => encR [.Z, .P, .P, .Z] 0 rs1 rs2 []
  | .ficvt rd rs1 => encR [.P, .P, .P, .Z] rd rs1 0 [.Z]
  | .fcvti rd rs1 => encR [.P, .P, .P, .Z] rd rs1 0 [.P]
  | .fcvtiz rd rs1 => encR [.P, .P, .P, .Z] rd rs1 0 [.N]
  | .vadd vd vs1 vs2 => encR [.Z, .N, .N, .P] vd vs1 vs2 [.Z]
  | .vsub vd vs1 vs2 => encR [.Z, .N, .N, .P] vd vs1 vs2 [.N]
  | .illegalVadd w => w
  | .vmul vd vs1 vs2 => encR [.P, .N, .N, .P] vd vs1 vs2 []
  | .vand vd vs1 vs2 => encR [.N, .Z, .N, .P] vd vs1 vs2 [.Z, .Z, .Z]
  | .vor vd vs1 vs2 => encR [.N, .Z, .N, .P] vd vs1 vs2 [.P, .Z, .Z]
  | .vimpl vd vs1 vs2 => encR [.N, .Z, .N, .P] vd vs1 vs2 [.Z, .P, .Z]
  | .vnot vd vs1 => encR [.N, .Z, .N, .P] vd vs1 0 [.P, .P, .Z]
  | .vcons vd vs1 vs2 => encR [.N, .Z, .N, .P] vd vs1 vs2 [.Z, .Z, .P]
  | .vacons vd vs1 vs2 => encR [.N, .Z, .N, .P] vd vs1 vs2 [.P, .Z, .P]
  | .illegalVlog w => w
  | .vsel vd vs1 vs2 vm => encR [.Z, .Z, .N, .P] vd vs1 vs2 (regTrits vm)
  | .vcmp vd vs1 vs2 => encR [.P, .Z, .N, .P] vd vs1 vs2 []
  | .vredSum rd vs1 => encR [.N, .P, .N, .P] rd vs1 0 [.Z, .Z, .Z]
  | .vredSign rd vs1 => encR [.N, .P, .N, .P] rd vs1 0 [.P, .Z, .Z]
  | .vredCons rd vs1 => encR [.N, .P, .N, .P] rd vs1 0 [.Z, .P, .Z]
  | .vredLst rd vs1 => encR [.N, .P, .N, .P] rd vs1 0 [.P, .P, .Z]
  | .vredMst rd vs1 => encR [.N, .P, .N, .P] rd vs1 0 [.Z, .Z, .P]
  | .vredAnd rd vs1 => encR [.N, .P, .N, .P] rd vs1 0 [.P, .Z, .P]
  | .vredOr rd vs1 => encR [.N, .P, .N, .P] rd vs1 0 [.Z, .P, .P]
  | .illegalVred w => w
  | .vrotl vd vs1 vs2 => encR [.Z, .P, .N, .P] vd vs1 vs2 [.Z, .Z, .Z]
  | .vrotr vd vs1 vs2 => encR [.Z, .P, .N, .P] vd vs1 vs2 [.P, .Z, .Z]
  | .vshl vd vs1 vs2 => encR [.Z, .P, .N, .P] vd vs1 vs2 [.Z, .P, .Z]
  | .vshr vd vs1 vs2 => encR [.Z, .P, .N, .P] vd vs1 vs2 [.P, .P, .Z]
  | .vrev vd vs1 => encR [.Z, .P, .N, .P] vd vs1 0 [.Z, .Z, .P]
  | .vshuf vd vs1 vs2 => encR [.Z, .P, .N, .P] vd vs1 vs2 [.P, .Z, .P]
  | .illegalVperm w => w
  | .vmovGv vd rs1 => encR [.P, .P, .N, .P] vd rs1 0 [.Z, .Z, .Z]
  | .vmovVg rd vs1 => encR [.P, .P, .N, .P] rd vs1 0 [.P, .Z, .Z]
  | .vmovVv vd vs1 => encR [.P, .P, .N, .P] vd vs1 0 [.Z, .P, .Z]
  | .vbcast vd rs1 => encR [.P, .P, .N, .P] vd rs1 0 [.P, .P, .Z]
  | .vins vd rs1 lane ignLo ignHi =>
    assemble [[.P, .P, .N, .P], regTrits vd, regTrits rs1, ignLo.list, [.Z, .Z, .P], intTrits 3 lane, ignHi.list]
  | .vext rd vs1 lane ignLo ignHi =>
    assemble [[.P, .P, .N, .P], regTrits rd, regTrits vs1, ignLo.list, [.P, .Z, .P], intTrits 3 lane, ignHi.list]
  | .illegalVmove w => w
  | .reservedOpcode w => w
  | .customOpcode w => w

/-! ### Instruction words as natural numbers -/

/-- The word a natural number stands for: the one whose value is congruent to it modulo `3 ^ 27` (log entry 1). -/
def wordOfNat (n : Nat) : Word := word (n : Int)

/-- The instruction the decoder reads from the word numbered `w`; a number of `3 ^ 27` or more names no word.
A word is always 27 trits, so `nbits` carries no information (log entry 1). -/
def decodeTableWord (_nbits w : Nat) : Option Instr :=
  if w < 3 ^ 27 then some (decode (wordOfNat w)) else none

end Sys2Proof
end

