-- ==== Sys2Proof/Machine/State.lean ====
section
/-! DEFINITION. The state of the machine (spec 10_state.md R20 and the rules it names), the inputs of the step
(R45, R72) held as plain data, why a step may have no successor, and the state after reset (R47). -/

namespace Sys2Proof.Machine

/-- Why a step stops where the spec says the behaviour is undefined. -/
inductive Fault where
  /-- IRET at STATUS.depth = Z: "undefined (illegal IRET — reserved for future trap)" (R264, U1). Raised by IRET. Safe. -/
  | iretAtDepthZ
  deriving DecidableEq, Repr

/-- Why the model gives a step no successor. -/
inductive Refusal where
  /-- The instruction has no meaning in the model yet. Raised by an arm of `exec`, never by a meaning. Safe. -/
  | notModelled (mnemonic : String)
  /-- A CSR write to PC (address 1), which the source gives no effect (R30, U28). Raised by CSRW and CSRX. Safe. -/
  | csrPcWrite
  /-- STATUS.mode = Z, to which the source assigns no behaviour, or a CSR write or IRET that would set it
  (R36, U5). Raised by every step, by the MPU check, and by CSRW, CSRX and IRET. Safe. -/
  | reservedMode
  /-- A STATUS with a non-Z trit in t[4..26], or a CSR write or IRET that would set one (R36, U7, D34).
  Raised by every step, and by CSRW, CSRX and IRET. Safe. -/
  | reservedStatus
  /-- An access the MPU allows to an address that the platform declares a device: the source gives no device a
  behaviour (R79). Raised by LOAD, STORE and the fetch. Safe. -/
  | deviceAccess
  deriving DecidableEq, Repr

/-- The type of a memory access (R83). -/
inductive Access where
  | read
  | write
  | fetch
  deriving DecidableEq, Repr

/-- One of the nine MPU region descriptors (R40, R82). -/
structure MpuDesc where
  base : Word
  permR : Trit
  permW : Trit
  permX : Trit
  size : Trits 4
  valid : Trit
  deriving DecidableEq, Repr

/-- What the platform puts at an address (R72, R79). -/
inductive MemKind where
  | memory
  | device
  deriving DecidableEq, Repr

/-- A range of existing word addresses, both ends included: part of the platform's `mem_valid` (R72). -/
structure MemRegion where
  lo : Int
  hi : Int
  kind : MemKind
  deriving DecidableEq, Repr

/-- The nine external interrupt lines at one sampling: `true` where a line is asserted (R45). -/
abbrev IrqLines := Vector Bool 9

/-- Memory: (address, word) pairs, addresses rising, none holding what an unlisted address reads as (R46, R70). -/
abbrev Memory := List (Int × Word)

/-- The state of the machine. The last three fields are the model's own: the platform's memory map, the values the
interrupt lines will be sampled at, and the number of open values drawn so far. -/
structure State where
  /-- r0..r26; entry 0 is never read and stays zero (R21). -/
  regs : Vector Word 27
  /-- v0..v26 (R24). -/
  vregs : Vector Word 27
  /-- The address of the instruction being executed (R26). -/
  pc : Word
  /-- CSR 2 (R31). -/
  lmode : Word
  /-- FLAGS t[0] (R32). -/
  flagSign : Trit
  /-- FLAGS t[1] (R32). -/
  flagCarry : Trit
  /-- CSR 4 (R33). -/
  epc : Word
  /-- CSR 5 (R33). -/
  ecause : Word
  /-- CSR 6 (R33). -/
  evec : Word
  /-- CSR 7: mode, ie, lx, depth in t[0..3] (R35). -/
  status : Word
  /-- CSR 8 (R33). -/
  esave : Word
  /-- CSR 9 (R33). -/
  etval : Word
  /-- CSR 10 (R34). -/
  epc2 : Word
  /-- CSR 11 (R34). -/
  ecause2 : Word
  /-- CSR 12 (R34). -/
  esave2 : Word
  /-- CSR 13 (R34). -/
  etval2 : Word
  /-- CSR −1, the selected region (R37). -/
  mpuSelect : Fin 9
  /-- The descriptor bank, seen through CSRs −2 and −3 (R40). -/
  mpu : Vector MpuDesc 9
  /-- `swpend[k]`: the software-pending latches; `true` is P, `false` is Z (R45). -/
  swpend : Vector Bool 9
  /-- CSR −5: `true` is P, `false` is Z (R42). -/
  ienable : Vector Bool 9
  /-- CSR −6: nine 3-trit fields (R43). -/
  ipriority : Word
  /-- Set by HALT (R45, R266). -/
  halted : Bool
  /-- R46. -/
  mem : Memory
  /-- The platform's memory map (R72); the first region that holds an address says what is there (log entry 3). -/
  memMap : List MemRegion
  /-- The values of `irq_lines` still to be sampled, the next one first; when it is empty no line is asserted (R45, log entry 4). -/
  irqFeed : List IrqLines
  /-- How many open values of `Config` the run has used (log entry 5). -/
  freeCount : Nat
  deriving DecidableEq, Repr

/-- A descriptor as reset leaves it: valid = N, every other field zero (R40, R47, D29). -/
def MpuDesc.reset : MpuDesc :=
  { base := zeroWord, permR := .Z, permW := .Z, permX := .Z, size := enc 0 4, valid := .N }

/-- The machine right after reset (R47). The general and vector registers, which the spec leaves unspecified, are
zero (log entry 2); the platform has memory at every address and asserts no interrupt line (log entries 3 and 4). -/
def State.reset : State :=
  { regs := Vector.replicate 27 zeroWord
    vregs := Vector.replicate 27 zeroWord
    pc := zeroWord
    lmode := zeroWord
    flagSign := .Z
    flagCarry := .Z
    epc := zeroWord
    ecause := zeroWord
    evec := zeroWord
    status := word (-1)
    esave := zeroWord
    etval := zeroWord
    epc2 := zeroWord
    ecause2 := zeroWord
    esave2 := zeroWord
    etval2 := zeroWord
    mpuSelect := 0
    mpu := Vector.replicate 9 MpuDesc.reset
    swpend := Vector.replicate 9 false
    ienable := Vector.replicate 9 false
    ipriority := zeroWord
    halted := false
    mem := []
    memMap := [{ lo := -H, hi := H, kind := .memory }]
    irqFeed := []
    freeCount := 0 }

end Sys2Proof.Machine
end

