-- ==== Sys2Proof/Machine/Ops.lean ====
section
/-! DEFINITION. The named operations over the state: registers, memory, the MPU, taking an exception and returning
from one, CSR access, interrupts, the fetch (spec 10_state.md, 20_memory.md, 44_system.md R267, 60_exceptions.md). -/

namespace Sys2Proof.Machine

/-- What a step or a meaning answers. -/
abbrev Result := Host.Outcome State Fault Refusal

/-- Why the body of an instruction ends before it writes anything (R14 `raise`, R441). -/
inductive Stop where
  /-- `raise(code, tval)`. -/
  | exc (code : Int) (tval : Word)
  | undefined (f : Fault)
  | refuse (r : Refusal)
  deriving DecidableEq, Repr

/-- The word `x` with trit `k` replaced. -/
def put {w : Nat} (x : Trits w) (k : Nat) (t : Trit) : Trits w :=
  Trits.ofFn fun i => if i = k then t else x.get i

/-- Whether the `len` trits of `x` from `lo` on are all Z. -/
def allZ {w : Nat} (x : Trits w) (lo len : Nat) : Bool := (List.range len).all fun k => x.get (lo + k) == .Z

/-! ### Registers -/

/-- `x[r]`; r0 reads as zero (R21). -/
def State.reg (s : State) (r : Reg) : Word := if r = 0 then zeroWord else s.regs[r]

/-- `x[r] <- v`; a write to r0 is discarded (R21). -/
def State.setReg (s : State) (r : Reg) (v : Word) : State :=
  if r = 0 then s else { s with regs := s.regs.set r.val v r.isLt }

/-- `v[r]` (R24). -/
def State.vreg (s : State) (r : VReg) : Word := s.vregs[r]

/-- `v[r] <- w`; v0 is an ordinary register (R24). -/
def State.setVreg (s : State) (r : VReg) (w : Word) : State :=
  { s with vregs := s.vregs.set r.val w r.isLt }

/-- STATUS.mode: N kernel, P user (R35). -/
def State.mode (s : State) : Trit := s.status.get 0

/-- STATUS.ie: only P enables interrupts (R35). -/
def State.ie (s : State) : Trit := s.status.get 1

/-- STATUS.lx (R35). -/
def State.lx (s : State) : Trit := s.status.get 2

/-- STATUS.depth: Z, P, N for 0, 1, 2 frames (R35). -/
def State.depth (s : State) : Trit := s.status.get 3

/-- Whether a STATUS word is one the spec gives a behaviour: mode not Z, t[4..26] all Z (R36). -/
def statusLegal (v : Word) : Bool := v.get 0 != .Z && allZ v 4 23

/-- The refusal of a STATUS the spec gives no behaviour, `none` where it is legal (R36). -/
def statusRefusal (v : Word) : Option Refusal :=
  if v.get 0 = .Z then some .reservedMode else if allZ v 4 23 then none else some .reservedStatus

/-- The pc of the next sequential instruction, `wrap_27(pc + 1)` (R26, R27). -/
def State.nextPc (s : State) : Word := word (s.pc.val + 1)

/-- Commit with the next sequential pc (R440 step 5). -/
def State.advance (s : State) : State := { s with pc := s.nextPc }

/-- Commit with an assigned pc (R440 step 5). -/
def State.jump (s : State) (target : Word) : State := { s with pc := target }

/-! ### Memory -/

/-- The word at an address; an unlisted address reads as the all-Z word (log entry 6). -/
def Memory.read : Memory → Int → Word
  | [], _ => zeroWord
  | (b, v) :: rest, a => if a = b then v else Memory.read rest a

/-- The memory with `v` at `a`, in canonical form again. -/
def Memory.write : Memory → Int → Word → Memory
  | [], a, v => if v = zeroWord then [] else [(a, v)]
  | (b, u) :: rest, a, v =>
    if a < b then
      if v = zeroWord then (b, u) :: rest else (a, v) :: (b, u) :: rest
    else if a = b then
      if v = zeroWord then rest else (a, v) :: rest
    else (b, u) :: Memory.write rest a v

/-- Every address of the list is above `lo`, in rising order and in the address space, and no word is all Z. -/
def Memory.wfFrom : Int → Memory → Bool
  | _, [] => true
  | lo, (a, v) :: rest => decide (lo < a) && decide (a ≤ H) && decide (v ≠ zeroWord) && Memory.wfFrom a rest

/-- The canonical form of a memory. -/
def Memory.wf (m : Memory) : Bool := Memory.wfFrom (-H - 1) m

/-- What the platform has at an address, `none` where `mem_valid` is false (R72). -/
def State.kindAt (s : State) (a : Int) : Option MemKind :=
  (s.memMap.find? fun r => decide (r.lo ≤ a) && decide (a ≤ r.hi)).map (·.kind)

/-! ### The MPU (R82, R83) -/

/-- Whether an active region holds the address: the literal interval `[base, base + 3 ^ n)` (R83, R87). -/
def MpuDesc.covers (d : MpuDesc) (a : Int) : Bool :=
  d.valid == .P && decide (d.base.val ≤ a) && decide (a < d.base.val + pow3 d.size.val.toNat)

/-- The permission trit for an access type (R83). -/
def MpuDesc.perm (d : MpuDesc) : Access → Trit
  | .read => d.permR
  | .write => d.permW
  | .fetch => d.permX

/-- The matching region of lowest index, which decides (R83). -/
def State.mpuRegion (s : State) (a : Int) : Option MpuDesc := s.mpu.toList.find? fun d => d.covers a

/-- What `MpuCheck` answers; it is not defined for mode = Z (R83, R36). -/
inductive Verdict where
  | allow
  | deny
  | undefined
  deriving DecidableEq, Repr

/-- `MpuCheck(a, type, M)` with M = STATUS.mode (R83). -/
def State.mpuCheck (s : State) (a : Int) (ty : Access) : Verdict :=
  match s.mode with
  | .Z => .undefined
  | .N =>
    match s.mpuRegion a with
    | none => .allow
    | some d => if d.perm ty = .N then .deny else .allow
  | .P =>
    match s.mpuRegion a with
    | none => .deny
    | some d => if d.perm ty = .P then .allow else .deny

/-! ### Cause codes (R420) -/

/-- EXC_DIV0 -/
def excDiv0 : Int := -13
/-- EXC_FAULT -/
def excFault : Int := -11
/-- EXC_ILLEGAL -/
def excIllegal : Int := -10
/-- EXC_PERM_R -/
def excPermR : Int := -9
/-- EXC_PERM_W -/
def excPermW : Int := -8
/-- EXC_PERM_X -/
def excPermX : Int := -7
/-- EXC_ECALL_U -/
def excEcallU : Int := 0
/-- EXC_ECALL_H -/
def excEcallH : Int := 1
/-- EXC_ECALL_D -/
def excEcallD : Int := 2
/-- IRQ_k -/
def irqCause (k : Nat) : Int := 20 + (k : Int)

/-- The cause of an access that the MPU denies (R84). -/
def permCause : Access → Int
  | .read => excPermR
  | .write => excPermW
  | .fetch => excPermX

/-- The checks of an access: existence, then the MPU, then the refusal of a device (R76, R77, R78, R79). -/
def State.checkAccess (s : State) (a : Word) (ty : Access) : Except Stop Unit :=
  match s.kindAt a.val with
  | none => .error (.exc excFault a)
  | some kind =>
    match s.mpuCheck a.val ty with
    | .undefined => .error (.refuse .reservedMode)
    | .deny => .error (.exc (permCause ty) a)
    | .allow =>
      match kind with
      | .device => .error (.refuse .deviceAccess)
      | .memory => .ok ()

/-- `MemRead(a, 1)` (R76). -/
def State.readMem (s : State) (a : Word) : Except Stop Word :=
  (s.checkAccess a .read).map fun _ => s.mem.read a.val

/-- `MemWrite(a, 1, v)` (R77). -/
def State.writeMem (s : State) (a v : Word) : Except Stop State :=
  (s.checkAccess a .write).map fun _ => { s with mem := s.mem.write a.val v }

/-- `Fetch(pc)` (R78). -/
def State.fetch (s : State) : Except Stop Word :=
  (s.checkAccess s.pc .fetch).map fun _ => s.mem.read s.pc.val

/-! ### Taking an exception, and returning from one -/

/-- STATUS after an entry: mode ← N, ie ← N, depth as given; lx and t[4..26] kept (R431, R432). -/
def enterStatus (status : Word) (depth : Trit) : Word := put (put (put status 0 .N) 1 .N) 3 depth

/-- Case 1, outer entry at depth Z (R431). -/
def State.enterMain (s : State) (code : Int) (tval epc : Word) : State :=
  { s with
    esave := s.status
    epc := epc
    ecause := word code
    etval := tval
    status := enterStatus s.status .P
    pc := s.evec }

/-- Case 2, nested entry at depth P (R432). -/
def State.enterNested (s : State) (code : Int) (tval epc : Word) : State :=
  { s with
    esave2 := s.status
    epc2 := epc
    ecause2 := word code
    etval2 := tval
    status := enterStatus s.status .N
    pc := s.evec }

/-- The machine-check reset: CSRs, MPU bank, latches and halted flag as after power-on, pc 0; general registers,
vector registers and memory keep their values (R436), and so does what is not of the machine (log entries 3, 4, 5). -/
def State.machineCheckReset (s : State) : State :=
  { State.reset with
    regs := s.regs
    vregs := s.vregs
    mem := s.mem
    memMap := s.memMap
    irqFeed := s.irqFeed
    freeCount := s.freeCount }

/-- `Trap(code, tval, epc)`: the bank is chosen by STATUS.depth (R430). -/
def State.trap (s : State) (code : Int) (tval epc : Word) : State :=
  match s.depth with
  | .Z => s.enterMain code tval epc
  | .P => s.enterNested code tval epc
  | .N => s.machineCheckReset

/-- The end of an instruction: its next state, or the entry its exception makes with EPC = pc (R435, R440). -/
def finish (s : State) : Except Stop State → Result
  | .ok t => .next t
  | .error (.exc code tval) => .next (s.trap code tval s.pc)
  | .error (.undefined f) => .fault f
  | .error (.refuse r) => .refused r

/-- EXC_ILLEGAL with the raw instruction word (R129). -/
def raiseIllegal (raw : Word) (s : State) : Result := finish s (.error (.exc excIllegal raw))

/-- pc and STATUS from a saved pair, where the saved STATUS is one the spec gives a behaviour (R264, R36). -/
def State.restore (s : State) (pc status : Word) : Except Stop State :=
  match statusRefusal status with
  | some r => .error (.refuse r)
  | none => .ok { s with pc := pc, status := status }

/-- The return from an exception: the bank by STATUS.depth; undefined at depth Z (R264, R443). -/
def State.exceptionReturn (s : State) : Except Stop State :=
  match s.depth with
  | .P => s.restore s.epc s.esave
  | .N => s.restore s.epc2 s.esave2
  | .Z => .error (.undefined .iretAtDepthZ)

/-! ### The interrupt controller -/

/-- One sampling of the external lines (R45, R461). -/
def State.sampleLines (s : State) : IrqLines × State :=
  match s.irqFeed with
  | [] => (Vector.replicate 9 false, s)
  | lines :: rest => (lines, { s with irqFeed := rest })

/-- Bit `k` of a nine-line vector; lines above 8 do not exist. -/
def lineBit (v : Vector Bool 9) (k : Nat) : Bool := v[k]?.getD false

/-- `pending(k)`: the line is asserted or its software latch is set (R461). -/
def State.pending (s : State) (lines : IrqLines) (k : Nat) : Bool := lineBit lines k || lineBit s.swpend k

/-- `eligible(k)`: pending and enabled (R461). -/
def State.eligible (s : State) (lines : IrqLines) (k : Nat) : Bool := s.pending lines k && lineBit s.ienable k

/-- The priority of line `k`, `val(IPRIORITY[3k + 2 : 3k])` (R43). -/
def State.priority (s : State) (k : Nat) : Int := s.ipriority.field (3 * k) 3

/-- Among lines 0 … n − 1, the eligible one of greatest priority, the lowest line on ties (R461). -/
def pickLine (eligible : Nat → Bool) (priority : Nat → Int) : Nat → Option Nat
  | 0 => none
  | n + 1 =>
    match pickLine eligible priority n with
    | none => if eligible n then some n else none
    | some k => if eligible n && decide (priority k < priority n) then some n else some k

/-- The line whose interrupt is taken at this boundary, if the three masks let one through (R461, R464). -/
def State.interruptLine (s : State) (lines : IrqLines) : Option Nat :=
  if s.ie = .P ∧ s.depth ≠ .N then pickLine (s.eligible lines) s.priority 9 else none

/-! ### CSR access (R267) -/

/-- The CSRs a user-mode access may not name (R29, R451). -/
def kernelOnly : Csr → Bool
  | .pc | .lmode | .flags | .reserved _ => false
  | .epc | .ecause | .evec | .status | .esave | .etval | .epc2 | .ecause2 | .esave2 | .etval2 => true
  | .mpuSelect | .mpuBase | .mpuCfg | .ipending | .ienable | .ipriority => true

/-- `CsrCheck(a)` (R267). -/
def State.csrCheck (s : State) (c : Csr) (raw : Word) : Except Stop Unit :=
  if s.mode = .P ∧ kernelOnly c = true then .error (.exc excIllegal raw) else .ok ()

/-- A word with P at each set line and Z elsewhere (R41, R42). -/
def lineWord (f : Nat → Bool) : Word := Trits.ofFn fun k => if k < 9 && f k then .P else .Z

/-- Nine latches after a write: P sets, Z clears, N keeps; t[9..26] discarded (R41, R42). -/
def lineWrite (old : Vector Bool 9) (v : Word) : Vector Bool 9 :=
  Vector.ofFn fun k =>
    match v.get k.val with
    | .P => true
    | .Z => false
    | .N => old[k]

/-- The packed view of a descriptor's config fields (R39). -/
def MpuDesc.config (d : MpuDesc) : Word :=
  Trits.ofFn fun k =>
    if k = 0 then d.permR else if k = 1 then d.permW else if k = 2 then d.permX
    else if k < 7 then d.size.get (k - 3) else if k = 7 then d.valid else .Z

/-- Whether a word is a legal MPU_CFG: t[8..26] Z and the size in 0..26 (R39). -/
def configLegal (v : Word) : Bool := allZ v 8 19 && inRange 0 26 (v.field 3 4)

/-- The selected descriptor (R38). -/
def State.selected (s : State) : MpuDesc := s.mpu[s.mpuSelect]

/-- The bank with the selected descriptor replaced (R38). -/
def State.setSelected (s : State) (d : MpuDesc) : State :=
  { s with mpu := s.mpu.set s.mpuSelect.val d s.mpuSelect.isLt }

/-- `CsrRead(a)`, with the state after it: a read of IPENDING samples the lines, no other read changes anything (R267, R45). -/
def State.csrRead (s : State) : Csr → Word × State
  | .pc => (s.pc, s)
  | .lmode => (s.lmode, s)
  | .flags => (Trits.ofFn fun k => if k = 0 then s.flagSign else if k = 1 then s.flagCarry else .Z, s)
  | .epc => (s.epc, s)
  | .ecause => (s.ecause, s)
  | .evec => (s.evec, s)
  | .status => (s.status, s)
  | .esave => (s.esave, s)
  | .etval => (s.etval, s)
  | .epc2 => (s.epc2, s)
  | .ecause2 => (s.ecause2, s)
  | .esave2 => (s.esave2, s)
  | .etval2 => (s.etval2, s)
  | .mpuSelect => (word (s.mpuSelect.val : Int), s)
  | .mpuBase => (s.selected.base, s)
  | .mpuCfg => (s.selected.config, s)
  | .ipending => (lineWord (s.pending s.sampleLines.1), s.sampleLines.2)
  | .ienable => (lineWord (lineBit s.ienable), s)
  | .ipriority => (s.ipriority, s)
  | .reserved _ => (zeroWord, s)

/-- `CsrWrite(a, v)` (R267). -/
def State.csrWrite (s : State) (c : Csr) (v raw : Word) : Except Stop State :=
  match c with
  | .pc => .error (.refuse .csrPcWrite)
  | .lmode => .ok { s with lmode := v }
  | .flags => .ok { s with flagSign := v.get 0, flagCarry := v.get 1 }
  | .epc => .ok { s with epc := v }
  | .ecause => .ok { s with ecause := v }
  | .evec => .ok { s with evec := v }
  | .status =>
    match statusRefusal v with
    | some r => .error (.refuse r)
    | none => .ok { s with status := v }
  | .esave => .ok { s with esave := v }
  | .etval => .ok { s with etval := v }
  | .epc2 => .ok { s with epc2 := v }
  | .ecause2 => .ok { s with ecause2 := v }
  | .esave2 => .ok { s with esave2 := v }
  | .etval2 => .ok { s with etval2 := v }
  | .mpuSelect =>
    if inRange 0 8 v.val then .ok { s with mpuSelect := Fin.ofNat 9 v.val.toNat }
    else .error (.exc excIllegal raw)
  | .mpuBase => .ok (s.setSelected { s.selected with base := v })
  | .mpuCfg =>
    if configLegal v then
      .ok (s.setSelected { s.selected with
        permR := v.get 0, permW := v.get 1, permX := v.get 2, size := v.slice 3 4, valid := v.get 7 })
    else .error (.exc excIllegal raw)
  | .ipending => .ok { s with swpend := lineWrite s.swpend v }
  | .ienable => .ok { s with ienable := lineWrite s.ienable v }
  | .ipriority => .ok { s with ipriority := v }
  | .reserved _ => .ok s

end Sys2Proof.Machine
end

