-- ==== Sys2Proof/Machine/Flags.lean ====
section
/-! DEFINITION. Every FLAGS computation of the spec: the ALU and compare flags (40_alu_arith.md R141, R180; R215, R294);
the TFP flags stand with the format in T26f.lean (R322). -/

namespace Sys2Proof.Machine

/-- Both FLAGS trits written. -/
def State.setFlags (s : State) (sgn car : Trit) : State := { s with flagSign := sgn, flagCarry := car }

/-- The carry trit of a true sum: P above +H, N below −H, else Z (R141). -/
def carryTrit (sum : Int) : Trit := sign (carry 27 sum)

/-- The end of an ALU instruction: rd, then FLAGS with the sign of the word written (R141, R180), then the pc. -/
def State.aluWrite (s : State) (rd : Reg) (result : Word) (car : Trit) : State :=
  ((s.setReg rd result).setFlags (sign result.val) car).advance

/-- The end of a compare of true difference `d`: the sign of the difference itself (R215, R294). -/
def State.compareWrite (s : State) (d : Int) : State := (s.setFlags (sign d) (carryTrit d)).advance

/-- The end of an instruction that writes a general register and no flag (R219, R298). -/
def State.regWrite (s : State) (rd : Reg) (v : Word) : State := (s.setReg rd v).advance

/-- The end of an instruction that writes a vector register; no vector instruction writes FLAGS (R352). -/
def State.vregWrite (s : State) (vd : VReg) (v : Word) : State := (s.setVreg vd v).advance

end Sys2Proof.Machine
end

