-- ==== Sys2Proof/Machine/Tables.lean ====
section
/-! DEFINITION. The trit tables: addition and product (40_alu_arith.md R142, R145), the five logics and the
mode-free operations (41_alu_logic.md R181, R190–R195), clamp (47_vector.md R353), and the trit order. -/

namespace Sys2Proof.Machine

/-- The five three-valued logics (R181). -/
inductive LogicMode where
  | kleene
  | lukasiewicz
  | heyting
  | rm3
  | b3
  deriving DecidableEq, Repr

/-- Trit negation, P↔N (R160). -/
def tritNeg : Trit → Trit
  | .N => .P
  | .Z => .Z
  | .P => .N

/-- The smaller of two trits, N < Z < P. -/
def tritMin : Trit → Trit → Trit
  | .N, _ | _, .N => .N
  | .Z, _ | _, .Z => .Z
  | .P, .P => .P

/-- The larger of two trits, N < Z < P. -/
def tritMax : Trit → Trit → Trit
  | .P, _ | _, .P => .P
  | .Z, _ | _, .Z => .Z
  | .N, .N => .N

/-- The two-trit addition table: (sum, carry) (R142). -/
def tritAdd : Trit → Trit → Trit × Trit
  | .N, .N => (.P, .N)
  | .N, .Z => (.N, .Z)
  | .N, .P => (.Z, .Z)
  | .Z, .N => (.N, .Z)
  | .Z, .Z => (.Z, .Z)
  | .Z, .P => (.P, .Z)
  | .P, .N => (.Z, .Z)
  | .P, .Z => (.P, .Z)
  | .P, .P => (.N, .P)

/-- The adder of one position with a carry-in, (sum, carry-out): two uses of the table, whose carries never meet (R142). -/
def fullAdd (a b cin : Trit) : Trit × Trit :=
  let first := tritAdd a b
  let second := tritAdd first.1 cin
  (second.1, (tritAdd first.2 second.2).1)

/-- The carry into position `i` of the chained adder: FLAGS.carry or Z at position 0 (R143). -/
def rippleCarry (a b : Nat → Trit) (cin : Trit) : Nat → Trit
  | 0 => cin
  | i + 1 => (fullAdd (a i) (b i) (rippleCarry a b cin i)).2

/-- The 27 sum trits of the chained adder (R143). -/
def rippleSum (a b : Word) (cin : Trit) : Word :=
  Trits.ofFn fun i => (fullAdd (a.get i) (b.get i) (rippleCarry a.get b.get cin i)).1

/-- The carry-out of position 26 (R143). -/
def rippleCarryOut (a b : Word) (cin : Trit) : Trit := rippleCarry a.get b.get cin 27

/-- The trit product table (R145). -/
def tritMul : Trit → Trit → Trit
  | .N, .N => .P
  | .N, .Z => .Z
  | .N, .P => .N
  | .Z, .N => .Z
  | .Z, .Z => .Z
  | .Z, .P => .Z
  | .P, .N => .N
  | .P, .Z => .Z
  | .P, .P => .P

/-- AND of the four min-modes, and of B3 (R190). -/
def tand : LogicMode → Trit → Trit → Trit
  | .b3, .N, .N => .N
  | .b3, .N, .Z => .Z
  | .b3, .N, .P => .N
  | .b3, .Z, _ => .Z
  | .b3, .P, .N => .N
  | .b3, .P, .Z => .Z
  | .b3, .P, .P => .P
  | _, .N, _ => .N
  | _, .Z, .N => .N
  | _, .Z, .Z => .Z
  | _, .Z, .P => .Z
  | _, .P, b => b

/-- OR of the four max-modes, and of B3 (R191). -/
def tor : LogicMode → Trit → Trit → Trit
  | .b3, .N, .N => .N
  | .b3, .N, .Z => .Z
  | .b3, .N, .P => .P
  | .b3, .Z, _ => .Z
  | .b3, .P, .N => .P
  | .b3, .P, .Z => .Z
  | .b3, .P, .P => .P
  | _, .N, b => b
  | _, .Z, .N => .Z
  | _, .Z, .Z => .Z
  | _, .Z, .P => .P
  | _, .P, _ => .P

/-- NOT: negation, but for Heyting's NOT(Z) = N (R192). -/
def tnot : LogicMode → Trit → Trit
  | _, .N => .P
  | .heyting, .Z => .N
  | _, .Z => .Z
  | _, .P => .N

/-- IMPL, five distinct tables; the first operand is the antecedent (R193). -/
def timpl : LogicMode → Trit → Trit → Trit
  | .kleene, .N, _ => .P
  | .kleene, .Z, .N => .Z
  | .kleene, .Z, .Z => .Z
  | .kleene, .Z, .P => .P
  | .kleene, .P, b => b
  | .lukasiewicz, .N, _ => .P
  | .lukasiewicz, .Z, .N => .Z
  | .lukasiewicz, .Z, .Z => .P
  | .lukasiewicz, .Z, .P => .P
  | .lukasiewicz, .P, b => b
  | .heyting, .N, _ => .P
  | .heyting, .Z, .N => .N
  | .heyting, .Z, .Z => .P
  | .heyting, .Z, .P => .P
  | .heyting, .P, b => b
  | .rm3, .N, _ => .P
  | .rm3, .Z, .N => .N
  | .rm3, .Z, .Z => .Z
  | .rm3, .Z, .P => .P
  | .rm3, .P, .N => .N
  | .rm3, .P, .Z => .N
  | .rm3, .P, .P => .P
  | .b3, .N, .N => .P
  | .b3, .N, .Z => .Z
  | .b3, .N, .P => .P
  | .b3, .Z, _ => .Z
  | .b3, .P, b => b

/-- Consensus: `a` where the two agree, else Z; no mode (R195). -/
def tcons : Trit → Trit → Trit
  | .N, .N => .N
  | .P, .P => .P
  | _, _ => .Z

/-- Anti-consensus: Z where the two agree, else the absent trit; no mode (R195). -/
def tacons : Trit → Trit → Trit
  | .N, .Z => .P
  | .Z, .N => .P
  | .Z, .P => .N
  | .P, .Z => .N
  | _, _ => .Z

/-- `sign(a − b)` of two trits (R189, R370). -/
def tritCompare (a b : Trit) : Trit := sign (a.val - b.val)

/-- `clamp(x) = sign(x)` for −2..+2 (R353). -/
def clamp (x : Int) : Trit := sign x

end Sys2Proof.Machine
end

