-- ==== Sys2Proof/Machine/Operands.lean ====
section
/-! DEFINITION. Every operand form: the effective address, branch targets, the logic mode, trit and lane indices,
shift amounts, the lane-wise and whole-word reorderings (R181, R188, R218, R230, R291, R386, R407). -/

namespace Sys2Proof.Machine

/-- `val(x[r])`. -/
def State.regVal (s : State) (r : Reg) : Int := (s.reg r).val

/-- `ea = wrap_27(val(x[rs1]) + imm)` (R218). -/
def State.effectiveAddress (s : State) (rs1 : Reg) (imm : Int) : Word := word (s.regVal rs1 + imm)

/-- `wrap_27(pc + offset)` (R230). -/
def State.branchTarget (s : State) (off : Int) : Word := word (s.pc.val + off)

/-- A conditional branch: the target when taken, else the next instruction (R230). -/
def State.branchIf (s : State) (taken : Bool) (off : Int) : State :=
  if taken then s.jump (s.branchTarget off) else s.advance

/-- The logic in force: LMODE t[0], and STATUS.lx where that is N (R181). -/
def State.logicMode (s : State) : LogicMode :=
  match s.lmode.get 0 with
  | .Z => .kleene
  | .P => .b3
  | .N =>
    match s.lx with
    | .N => .heyting
    | .Z => .lukasiewicz
    | .P => .rm3

/-- An index in 0..26 as a trit position (R291, R292). -/
def tritIndex (k : Int) : Option Nat := if 0 ≤ k ∧ k ≤ 26 then some k.toNat else none

/-- Trit by trit, `r[i] = f x[i]`. -/
def mapTrits (f : Trit → Trit) (x : Word) : Word := Trits.ofFn fun i => f (x.get i)

/-- Trit by trit, `r[i] = f x[i] y[i]`. -/
def zipTrits (f : Trit → Trit → Trit) (x y : Word) : Word := Trits.ofFn fun i => f (x.get i) (y.get i)

/-- `r[i] = x[i − k]` where that trit exists, else Z: left for k > 0 (R188, R382). -/
def shiftTrits (x : Word) (k : Int) : Word :=
  Trits.ofFn fun i => if 0 ≤ (i : Int) - k ∧ (i : Int) - k ≤ 26 then x.get ((i : Int) - k).toNat else .Z

/-- `r[(i + n) mod 27] = x[i]` (R380). -/
def rotateTrits (x : Word) (n : Int) : Word := Trits.ofFn fun i => x.get (((i : Int) - n) % 27).toNat

/-- `r[i] = x[26 − i]` (R384). -/
def reverseTrits (x : Word) : Word := Trits.ofFn fun i => x.get (26 - i)

/-- The amount of a VPERM rotate or shift, `val(v[4:0])` (R386). -/
def permAmount (v : Word) : Int := v.field 0 5

/-- The least trit of a word (R296, R374). -/
def minTrit (x : Word) : Trit := (List.range 27).foldl (fun acc i => tritMin acc (x.get i)) .P

/-- The greatest trit of a word (R297, R375). -/
def maxTrit (x : Word) : Trit := (List.range 27).foldl (fun acc i => tritMax acc (x.get i)) .N

/-- The sum of the lanes, every lane of weight 1 (R371). -/
def laneSum (x : Word) : Int := ((List.range 27).map fun i => (x.get i).val).sum

/-- Whether some lane holds `t` (R373). -/
def hasTrit (x : Word) (t : Trit) : Bool := (List.range 27).any fun i => x.get i == t

/-- `acc := x[0]; acc := f acc x[i] for i = 1..26` (R376, R377). -/
def foldTrits (f : Trit → Trit → Trit) (x : Word) : Trit :=
  (List.range 26).foldl (fun acc i => f acc (x.get (i + 1))) (x.get 0)

/-- A trit as a 27-trit word, `enc(t, 27)`. -/
def tritWord (t : Trit) : Word := word t.val

/-- The number of the next open value, and the state that has used it (log entry 5). -/
def State.drawFree (s : State) : Nat × State := (s.freeCount, { s with freeCount := s.freeCount + 1 })

end Sys2Proof.Machine
end

