-- ==== Sys2Proof/Machine/Arith.lean ====
section
/-! DEFINITION. ALU arithmetic: ADD … NEG and the illegal row of the MUL opcode (40_alu_arith.md R140–R160). -/

namespace Sys2Proof.Machine

/-- `max(−H, min(+H, S))` (R151). -/
def saturate (sum : Int) : Int := max (-H) (min H sum)

/-- The quotient of the symmetric Euclidean division, ties toward zero (R146). -/
def divNearest (a b : Int) : Int :=
  if |b| < 2 * |a.tmod b| then a.tdiv b + (sign a).val * (sign b).val else a.tdiv b

/-- The remainder of the symmetric Euclidean division (R146). -/
def modNearest (a b : Int) : Int := a - divNearest a b * b

/-- ADD (R150). -/
def execAdd (rd rs1 rs2 : Reg) (s : State) : Result :=
  let sum := s.regVal rs1 + s.regVal rs2
  .next (s.aluWrite rd (word sum) (carryTrit sum))

/-- ADDS (R151). -/
def execAdds (rd rs1 rs2 : Reg) (s : State) : Result :=
  .next (s.aluWrite rd (word (saturate (s.regVal rs1 + s.regVal rs2))) .Z)

/-- ADC (R152). -/
def execAdc (rd rs1 rs2 : Reg) (s : State) : Result :=
  let sum := s.regVal rs1 + s.regVal rs2 + s.flagCarry.val
  .next (s.aluWrite rd (word sum) (carryTrit sum))

/-- SUB (R153). -/
def execSub (rd rs1 rs2 : Reg) (s : State) : Result :=
  let sum := s.regVal rs1 - s.regVal rs2
  .next (s.aluWrite rd (word sum) (carryTrit sum))

/-- SUBS (R154). -/
def execSubs (rd rs1 rs2 : Reg) (s : State) : Result :=
  .next (s.aluWrite rd (word (saturate (s.regVal rs1 - s.regVal rs2))) .Z)

/-- SBC: the formula of the opcode table (R155, log entry 38). -/
def execSbc (rd rs1 rs2 : Reg) (s : State) : Result :=
  let sum := s.regVal rs1 - s.regVal rs2 - s.flagCarry.val
  .next (s.aluWrite rd (word sum) (carryTrit sum))

/-- MUL: the low 27 trits of the exact product (R156). -/
def execMul (rd rs1 rs2 : Reg) (s : State) : Result :=
  .next (s.aluWrite rd (word (s.regVal rs1 * s.regVal rs2)) .Z)

/-- MULH: trits 27..53 of the exact product (R157). -/
def execMulh (rd rs1 rs2 : Reg) (s : State) : Result :=
  .next (s.aluWrite rd (word (carry 27 (s.regVal rs1 * s.regVal rs2))) .Z)

/-- The MUL opcode with funct[0] = N (R124, R129). -/
def execIllegalMul (w : Word) (s : State) : Result := raiseIllegal w s

/-- DIV (R158). -/
def execDiv (rd rs1 rs2 : Reg) (s : State) : Result :=
  finish s
    (if s.regVal rs2 = 0 then .error (.exc excDiv0 zeroWord)
     else .ok (s.aluWrite rd (word (divNearest (s.regVal rs1) (s.regVal rs2))) .Z))

/-- MOD (R159, log entry 28). -/
def execMod (rd rs1 rs2 : Reg) (s : State) : Result :=
  finish s
    (if s.regVal rs2 = 0 then .error (.exc excDiv0 zeroWord)
     else .ok (s.aluWrite rd (word (modNearest (s.regVal rs1) (s.regVal rs2))) .Z))

/-- NEG: every trit inverted (R160). -/
def execNeg (rd rs1 : Reg) (s : State) : Result :=
  .next (s.aluWrite rd (mapTrits tritNeg (s.reg rs1)) .Z)

end Sys2Proof.Machine
end

