-- ==== Sys2Proof/Machine/Branch.lean ====
section
/-! DEFINITION. Branches, jumps and the call (43_branch.md R230–R243). -/

namespace Sys2Proof.Machine

/-- BRT3: P falls through, Z takes the first offset, N the second (R241). -/
def execBrt3 (rX : Reg) (offZ offN : Int) (s : State) : Result :=
  match (s.reg rX).get 0 with
  | .P => .next s.advance
  | .Z => .next (s.jump (s.branchTarget offZ))
  | .N => .next (s.jump (s.branchTarget offN))

/-- BEQ (R231). -/
def execBeq (rs1 : Reg) (off : Int) (s : State) : Result := .next (s.branchIf (decide (s.regVal rs1 = 0)) off)

/-- BNE (R232). -/
def execBne (rs1 : Reg) (off : Int) (s : State) : Result := .next (s.branchIf (decide (s.regVal rs1 ≠ 0)) off)

/-- BLT (R233). -/
def execBlt (rs1 : Reg) (off : Int) (s : State) : Result := .next (s.branchIf (decide (s.regVal rs1 < 0)) off)

/-- BGT (R234). -/
def execBgt (rs1 : Reg) (off : Int) (s : State) : Result := .next (s.branchIf (decide (0 < s.regVal rs1)) off)

/-- BLE (R235). -/
def execBle (rs1 : Reg) (off : Int) (s : State) : Result := .next (s.branchIf (decide (s.regVal rs1 ≤ 0)) off)

/-- BGE (R236). -/
def execBge (rs1 : Reg) (off : Int) (s : State) : Result := .next (s.branchIf (decide (0 ≤ s.regVal rs1)) off)

/-- JMPA: absolute, from rs1 (R237). -/
def execJmpa (rs1 : Reg) (off : Int) (s : State) : Result := .next (s.jump (s.effectiveAddress rs1 off))

/-- Whether a BF mask selects the value of FLAGS.sign; only P in the mask selects (R239, log entry 32). -/
def flagMatch (mN mZ mP sgn : Trit) : Bool :=
  match sgn with
  | .N => mN == .P
  | .Z => mZ == .P
  | .P => mP == .P

/-- BF (R239). -/
def execBf (mN mZ mP : Trit) (off : Int) (s : State) : Result :=
  .next (s.branchIf (flagMatch mN mZ mP s.flagSign) off)

/-- JMP (R242). -/
def execJmp (off : Int) (s : State) : Result := .next (s.jump (s.branchTarget off))

/-- CALL: the link register is r1 (R243). -/
def execCall (off : Int) (s : State) : Result := .next ((s.setReg 1 s.nextPc).jump (s.branchTarget off))

end Sys2Proof.Machine
end

