-- ==== Sys2Proof/Machine/Logic.lean ====
section
/-! DEFINITION. ALU logic and trit-wise instructions: TAND … TCMP (41_alu_logic.md R180–R189). -/

namespace Sys2Proof.Machine

/-- TAND (R182). -/
def execTand (rd rs1 rs2 : Reg) (s : State) : Result :=
  .next (s.aluWrite rd (zipTrits (tand s.logicMode) (s.reg rs1) (s.reg rs2)) .Z)

/-- TOR (R183). -/
def execTor (rd rs1 rs2 : Reg) (s : State) : Result :=
  .next (s.aluWrite rd (zipTrits (tor s.logicMode) (s.reg rs1) (s.reg rs2)) .Z)

/-- TNOT (R184). -/
def execTnot (rd rs1 : Reg) (s : State) : Result :=
  .next (s.aluWrite rd (mapTrits (tnot s.logicMode) (s.reg rs1)) .Z)

/-- TIMPL: antecedent rs1, consequent rs2 (R185). -/
def execTimpl (rd rs1 rs2 : Reg) (s : State) : Result :=
  .next (s.aluWrite rd (zipTrits (timpl s.logicMode) (s.reg rs1) (s.reg rs2)) .Z)

/-- CONS: no mode (R186). -/
def execCons (rd rs1 rs2 : Reg) (s : State) : Result :=
  .next (s.aluWrite rd (zipTrits tcons (s.reg rs1) (s.reg rs2)) .Z)

/-- ACONS: no mode (R187). -/
def execAcons (rd rs1 rs2 : Reg) (s : State) : Result :=
  .next (s.aluWrite rd (zipTrits tacons (s.reg rs1) (s.reg rs2)) .Z)

/-- TSHIFT: the amount is the whole value of rs2 (R188). -/
def execTshift (rd rs1 rs2 : Reg) (s : State) : Result :=
  .next (s.aluWrite rd (shiftTrits (s.reg rs1) (s.regVal rs2)) .Z)

/-- TCMP (R189). -/
def execTcmp (rd rs1 rs2 : Reg) (s : State) : Result :=
  .next (s.aluWrite rd (zipTrits tritCompare (s.reg rs1) (s.reg rs2)) .Z)

end Sys2Proof.Machine
end

