-- ==== Sys2Proof/Machine/MemImm.lean ====
section
/-! DEFINITION. Memory and immediate instructions: LOAD, STORE, LI, LUI, ADDI, CMPI (42_mem_imm.md R210–R219). -/

namespace Sys2Proof.Machine

/-- LOAD: the access and its checks are made even where rd is r0 (R210). -/
def execLoad (rd rs1 : Reg) (imm : Int) (s : State) : Result :=
  finish s ((s.readMem (s.effectiveAddress rs1 imm)).map fun v => s.regWrite rd v)

/-- STORE (R211). -/
def execStore (rsrc rs1 : Reg) (imm : Int) (s : State) : Result :=
  finish s ((s.writeMem (s.effectiveAddress rs1 imm) (s.reg rsrc)).map fun t => t.advance)

/-- LI (R212): zero-extension keeps the value (R122). -/
def execLi (rd : Reg) (imm : Int) (s : State) : Result := .next (s.regWrite rd (word imm))

/-- LUI: `imm17` in trits 10..26 (R213). -/
def execLui (rd : Reg) (imm : Int) (s : State) : Result := .next (s.regWrite rd (word (imm * pow3 10)))

/-- ADDI: FLAGS unchanged (R214). -/
def execAddi (rd rs1 : Reg) (imm : Int) (s : State) : Result := .next (s.regWrite rd (word (s.regVal rs1 + imm)))

/-- CMPI (R215). -/
def execCmpi (rs1 : Reg) (imm : Int) (s : State) : Result := .next (s.compareWrite (s.regVal rs1 - imm))

end Sys2Proof.Machine
end

