-- ==== Sys2Proof/Machine/Special.lean ====
section
/-! DEFINITION. The special group: TSEL, TGET, TSET, TSIGN, CMP, TABS, TMIN, TMAX (45_trit_special.md R290–R298). -/

namespace Sys2Proof.Machine

/-- TSEL (R290). -/
def execTsel (rd rn rz rp : Reg) (s : State) : Result :=
  match s.flagSign with
  | .N => .next (s.regWrite rd (s.reg rn))
  | .Z => .next (s.regWrite rd (s.reg rz))
  | .P => .next (s.regWrite rd (s.reg rp))

/-- TGET; an index outside 0..26 leaves rd open (R291, log entry 12). -/
def execTget (rd rs1 rs2 : Reg) (s : State) : Result :=
  match tritIndex (s.regVal rs2) with
  | some k => .next (s.regWrite rd (tritWord ((s.reg rs1).get k)))
  | none =>
    .next (s.drawFree.2.regWrite rd (Trits.ofFn (Config.tgetOob s.drawFree.1 (s.reg rs1) (s.reg rs2))))

/-- rs1 with the trit that rs2 names replaced; an index outside 0..26 leaves rd open (R292, log entry 12). -/
def State.setTrit (s : State) (rd rs1 rs2 : Reg) (t : Trit) : State :=
  match tritIndex (s.regVal rs2) with
  | some k => s.regWrite rd (put (s.reg rs1) k t)
  | none => s.drawFree.2.regWrite rd (Trits.ofFn (Config.tsetOob s.drawFree.1 (s.reg rs1) (s.reg rs2) t))

/-- TSETN (R292). -/
def execTsetn (rd rs1 rs2 : Reg) (s : State) : Result := .next (s.setTrit rd rs1 rs2 .N)

/-- TSETZ (R292). -/
def execTsetz (rd rs1 rs2 : Reg) (s : State) : Result := .next (s.setTrit rd rs1 rs2 .Z)

/-- TSETP (R292). -/
def execTsetp (rd rs1 rs2 : Reg) (s : State) : Result := .next (s.setTrit rd rs1 rs2 .P)

/-- TSIGN (R293). -/
def execTsign (rd rs1 : Reg) (s : State) : Result := .next (s.regWrite rd (tritWord (sign (s.regVal rs1))))

/-- CMP (R294). -/
def execCmp (rs1 rs2 : Reg) (s : State) : Result := .next (s.compareWrite (s.regVal rs1 - s.regVal rs2))

/-- TABS (R295). -/
def execTabs (rd rs1 : Reg) (s : State) : Result :=
  .next (s.regWrite rd (if s.regVal rs1 < 0 then mapTrits tritNeg (s.reg rs1) else s.reg rs1))

/-- TMIN (R296). -/
def execTmin (rd rs1 : Reg) (s : State) : Result := .next (s.regWrite rd (tritWord (minTrit (s.reg rs1))))

/-- TMAX (R297). -/
def execTmax (rd rs1 : Reg) (s : State) : Result := .next (s.regWrite rd (tritWord (maxTrit (s.reg rs1))))

end Sys2Proof.Machine
end

