-- ==== Sys2Proof/Machine/System.lean ====
section
/-! DEFINITION. CSR access, the environment call, exception return, NOP, HALT, and the reserved and custom opcodes
(44_system.md R259–R270, 30_encoding.md R125, R126). -/

namespace Sys2Proof.Machine

/-- The body of CSRR (R260). -/
def State.csrLoad (s : State) (rd : Reg) (csr : Csr) (raw : Word) : Except Stop State :=
  (s.csrCheck csr raw).map fun _ => ((s.csrRead csr).2).regWrite rd (s.csrRead csr).1

/-- The body of CSRW (R261). -/
def State.csrStore (s : State) (csr : Csr) (rs1 : Reg) (raw : Word) : Except Stop State :=
  (s.csrCheck csr raw).bind fun _ => (s.csrWrite csr (s.reg rs1) raw).map fun t => t.advance

/-- The body of CSRX: the old value to rd, the old rs1 to the CSR, or neither (R262). -/
def State.csrExchange (s : State) (rd rs1 : Reg) (csr : Csr) (raw : Word) : Except Stop State :=
  (s.csrCheck csr raw).bind fun _ =>
    ((s.csrRead csr).2.csrWrite csr (s.reg rs1) raw).map fun t => (t.setReg rd (s.csrRead csr).1).advance

/-- CSRR (R260). The raw word, for ETVAL, is the encoding of the instruction with its ignored trits. -/
def execCsrr (rd : Reg) (csr : Csr) (ignLo : Trits 3) (ignHi : Trits 14) (s : State) : Result :=
  finish s (s.csrLoad rd csr (encode (.csrr rd csr ignLo ignHi)))

/-- CSRW (R261). -/
def execCsrw (csr : Csr) (rs1 : Reg) (ignLo : Trits 3) (ignHi : Trits 14) (s : State) : Result :=
  finish s (s.csrStore csr rs1 (encode (.csrw csr rs1 ignLo ignHi)))

/-- CSRX (R262). -/
def execCsrx (rd rs1 : Reg) (csr : Csr) (ignHi : Trits 14) (s : State) : Result :=
  finish s (s.csrExchange rd rs1 csr (encode (.csrx rd rs1 csr ignHi)))

/-- ECALL (R263). -/
def execEcall (s : State) : Result := .next (s.trap excEcallU zeroWord s.pc)

/-- HCALL (R263). -/
def execHcall (s : State) : Result := .next (s.trap excEcallH zeroWord s.pc)

/-- DBGBRK (R263). -/
def execDbgbrk (s : State) : Result := .next (s.trap excEcallD zeroWord s.pc)

/-- IRET, in either mode (R264, log entry 10). -/
def execIret (s : State) : Result := finish s s.exceptionReturn

/-- NOP (R265). -/
def execNop (s : State) : Result := .next s.advance

/-- HALT: pc keeps the address of the HALT (R266). -/
def execHalt (s : State) : Result := .next { s with halted := true }

/-- Opcodes −20, −19, +14, +23, +24 (R125). -/
def execReservedOpcode (w : Word) (s : State) : Result := raiseIllegal w s

/-- Opcodes +25..+40 (R126, log entry 19). -/
def execCustomOpcode (w : Word) (s : State) : Result := raiseIllegal w s

end Sys2Proof.Machine
end

