-- ==== Sys2Proof/Machine/T26f.lean ====
section
/-! DEFINITION. The T26F format: decoding a word, encoding an exact rational, `T26F_round`, the special-operand rules
of the four operations, the comparison, and the FLAGS of a TFP result (46_tfp.md R310–R324). -/

namespace Sys2Proof.Machine

/-- What a T26F word denotes (R311, R316). -/
inductive Tfp where
  | zero
  | inf
  | nar
  | normal (q : Rat)
  deriving DecidableEq, Repr

/-- `M`, the 26-trit midpoint pattern (R312). -/
def tfpM : Int := 635466457082

/-- Whether a word is a T26F value: `w[26] = Z` (R310). -/
def isT26f (w : Word) : Bool := w.get 26 == .Z

/-- `3 ^ e` for any integer exponent. -/
def pow3q (e : Int) : Rat := if 0 ≤ e then (pow3 e.toNat : Rat) else 1 / (pow3 (-e).toNat : Rat)

/-- `BIAS[|r|]` (R314). -/
def tfpBias : Nat → Int
  | 0 => 0
  | 1 => 1
  | 2 => 2
  | 3 => 4
  | 4 => 10
  | 5 => 28
  | 6 => 82
  | _ => 244

/-- `c = max(0, |r| − 2)`, the exponent trits of a regime (R313). -/
def tfpExpTrits (r : Int) : Nat := r.natAbs - 2

/-- `e = x + sign(r) · BIAS[|r|]` (R314). -/
def tfpExponent (r x : Int) : Int := x + (sign r).val * tfpBias r.natAbs

/-- `(1 + f) · 3 ^ e` with `f = F / 3 ^ p` (R315, R316). -/
def tfpMagnitude (e frac : Int) (p : Nat) : Rat := (1 + (frac : Rat) / (pow3 p : Rat)) * pow3q e

/-- `T26F_decode(w)` (R316). -/
def decodeT26f (w : Word) : Tfp :=
  if w.val = 0 then .zero
  else if w.val = 2 * tfpM then .inf
  else if w.val = -(2 * tfpM) then .nar
  else
    let a : Trits 26 := enc (|w.val| - tfpM) 26
    let r := a.field 23 3
    if 7 < r.natAbs then .nar
    else
      let c := tfpExpTrits r
      let p := 23 - c
      .normal ((sign w.val).val * tfpMagnitude (tfpExponent r (a.field p c)) (a.field 0 p) p)

/-- The rational a finite value denotes; Zero denotes 0. -/
def Tfp.rat : Tfp → Rat
  | .normal q => q
  | _ => 0

/-- The word of ∞ (R311). -/
def infWord : Word := word (2 * tfpM)

/-- The word of NaR (R311). -/
def narWord : Word := word (-(2 * tfpM))

/-! ### Rounding (R321) -/

/-- The regime whose exponents hold `e` (R314, the derived row). -/
def tfpRegime (e : Int) : Int :=
  let size : Nat :=
    if e.natAbs ≤ 2 then e.natAbs else if e.natAbs ≤ 5 then 3 else if e.natAbs ≤ 14 then 4
    else if e.natAbs ≤ 41 then 5 else if e.natAbs ≤ 122 then 6 else 7
  (sign e).val * (size : Int)

/-- The exponent of a magnitude: the least `e` of −365..365 with `m < 3 ^ (e + 1) / 2` (R318: no pattern lies outside). -/
def tfpLeading (m : Rat) : Int :=
  let k : Nat := ((List.range 731).find? fun (k : Nat) => decide (2 * m < pow3q ((k : Int) - 364))).getD 730
  (k : Int) - 365

/-- The only word that can denote a non-zero rational: its fields read off the exponent and the fraction. -/
def tfpCandidate (q : Rat) : Word :=
  let e := tfpLeading |q|
  let r := tfpRegime e
  let p := 23 - tfpExpTrits r
  let x := e - (sign r).val * tfpBias r.natAbs
  let frac := ((|q| / pow3q e - 1) * (pow3 p : Rat)).floor
  word ((sign q.num).val * (r * pow3 23 + x * pow3 p + frac + tfpM))

/-- The pattern of a rational that a normal pattern represents, `none` where no pattern does (R321). -/
def encodeT26f (q : Rat) : Option Word :=
  let w := tfpCandidate q
  if isT26f w ∧ decodeT26f w = .normal q then some w else none

/-- The word of what `tfp_round` answers. -/
def TfpRounded.word : TfpRounded → Word
  | .zero => zeroWord
  | .inf => infWord
  | .normal negative mag =>
    Sys2Proof.word (if negative then -((mag.val : Int) + 1) else (mag.val : Int) + 1)

/-- `T26F_round(q)` (R321); inexact results are the open parameter `tfp_round` (log entry 11). -/
def t26fRound (q : Rat) : Word :=
  if q = 0 then zeroWord
  else
    match encodeT26f q with
    | some w => w
    | none => TfpRounded.word (Config.tfpRound q)

/-! ### The operations on decoded operands (R323, R330–R334) -/

/-- FADD (R330). -/
def tfpAdd (a b : Tfp) : Word :=
  if a = .nar ∨ b = .nar then narWord
  else if a = .inf ∧ b = .inf then narWord
  else if a = .inf ∨ b = .inf then infWord
  else t26fRound (a.rat + b.rat)

/-- FSUB (R331). -/
def tfpSub (a b : Tfp) : Word :=
  if a = .nar ∨ b = .nar then narWord
  else if a = .inf ∧ b = .inf then narWord
  else if a = .inf ∨ b = .inf then infWord
  else t26fRound (a.rat - b.rat)

/-- FMUL (R332). -/
def tfpMul (a b : Tfp) : Word :=
  if a = .nar ∨ b = .nar then narWord
  else if (a = .inf ∧ b = .zero) ∨ (a = .zero ∧ b = .inf) then narWord
  else if a = .inf ∨ b = .inf then infWord
  else t26fRound (a.rat * b.rat)

/-- FDIV (R333). -/
def tfpDiv (a b : Tfp) : Word :=
  if a = .nar ∨ b = .nar then narWord
  else if b = .zero then (if a = .zero then narWord else infWord)
  else if a = .inf ∧ b = .inf then narWord
  else if a = .inf then infWord
  else if b = .inf then zeroWord
  else t26fRound (a.rat / b.rat)

/-- (FLAGS.sign, FLAGS.carry) of a result word, by its class (R322). -/
def tfpFlags (w : Word) : Trit × Trit :=
  match decodeT26f w with
  | .nar => (.Z, .N)
  | .inf => (.P, .P)
  | .zero => (.Z, .Z)
  | .normal _ => (sign w.val, .Z)

/-- (FLAGS.sign, FLAGS.carry) of FCMP (R334). -/
def tfpCompare (a b : Tfp) : Trit × Trit :=
  if a = .nar ∨ b = .nar then (.Z, .N)
  else if a = .inf ∧ b = .inf then (.Z, .N)
  else if a = .inf ∨ b = .inf then (.P, .P)
  else (sign (a.rat - b.rat).num, .Z)

/-- The integer nearest to a rational; no T26F value is half-way between two (R336). -/
def roundNearest (q : Rat) : Int := (q + 1 / 2).floor

/-- `sign(q) · floor(|q|)` (R337). -/
def roundToZero (q : Rat) : Int := (sign q.num).val * |q|.floor

end Sys2Proof.Machine
end

