-- ==== Sys2Proof/Machine/TfpExec.lean ====
section
/-! DEFINITION. The floating-point instructions: FADD, FSUB, FMUL, FDIV, FCMP, FICVT, FCVTI, FCVTIZ
(46_tfp.md R320–R337). None raises an exception (R324). -/

namespace Sys2Proof.Machine

/-- A result word and its FLAGS (R322). -/
def State.tfpWrite (s : State) (rd : Reg) (w : Word) (flags : Trit × Trit) : State :=
  ((s.setReg rd w).setFlags flags.1 flags.2).advance

/-- Word and FLAGS of an operation one of whose operands is not a T26F value (R320, log entry 11). -/
def nonT26fWord (n : Nat) (op : TfpOp) (a b : Word) : Word := Trits.ofFn (Config.tfpNonT26f n op a b)

/-- The FLAGS beside `nonT26fWord`. -/
def nonT26fFlags (n : Nat) (op : TfpOp) (a b : Word) : Trit × Trit :=
  (Config.tfpNonT26f n op a b 27, Config.tfpNonT26f n op a b 28)

/-- A two-operand operation: `f` on the decoded operands, open where an operand is not a T26F value (R320, R324). -/
def State.tfpBinary (s : State) (op : TfpOp) (f : Tfp → Tfp → Word) (rd rs1 rs2 : Reg) : State :=
  let a := s.reg rs1
  let b := s.reg rs2
  if isT26f a && isT26f b then
    s.tfpWrite rd (f (decodeT26f a) (decodeT26f b)) (tfpFlags (f (decodeT26f a) (decodeT26f b)))
  else s.drawFree.2.tfpWrite rd (nonT26fWord s.drawFree.1 op a b) (nonT26fFlags s.drawFree.1 op a b)

/-- FADD (R330). -/
def execFadd (rd rs1 rs2 : Reg) (s : State) : Result := .next (s.tfpBinary .fadd tfpAdd rd rs1 rs2)

/-- FSUB (R331). -/
def execFsub (rd rs1 rs2 : Reg) (s : State) : Result := .next (s.tfpBinary .fsub tfpSub rd rs1 rs2)

/-- FMUL (R332). -/
def execFmul (rd rs1 rs2 : Reg) (s : State) : Result := .next (s.tfpBinary .fmul tfpMul rd rs1 rs2)

/-- FDIV (R333). -/
def execFdiv (rd rs1 rs2 : Reg) (s : State) : Result := .next (s.tfpBinary .fdiv tfpDiv rd rs1 rs2)

/-- FCMP (R334). -/
def execFcmp (rs1 rs2 : Reg) (s : State) : Result :=
  let a := s.reg rs1
  let b := s.reg rs2
  if isT26f a && isT26f b then
    let flags := tfpCompare (decodeT26f a) (decodeT26f b)
    .next ((s.setFlags flags.1 flags.2).advance)
  else
    let flags := nonT26fFlags s.drawFree.1 .fcmp a b
    .next ((s.drawFree.2.setFlags flags.1 flags.2).advance)

/-- FICVT: FLAGS unchanged (R335). -/
def execFicvt (rd rs1 : Reg) (s : State) : Result := .next (s.regWrite rd (t26fRound (s.regVal rs1 : Rat)))

/-- The value a conversion to integer writes, `none` where it is open (R336, R337). -/
def convertedInt (round : Rat → Int) : Tfp → Option Int
  | .zero => some 0
  | .normal q => if |round q| ≤ H then some (round q) else none
  | .inf => none
  | .nar => none

/-- A conversion to integer; open for a word that is not a T26F value (R320) and for ∞, NaR and values beyond ±H
(log entry 11). FLAGS unchanged (R322). -/
def State.tfpToInt (s : State) (op : TfpOp) (round : Rat → Int) (rd rs1 : Reg) : State :=
  let a := s.reg rs1
  if isT26f a then
    match convertedInt round (decodeT26f a) with
    | some n => s.regWrite rd (word n)
    | none => s.drawFree.2.regWrite rd (Trits.ofFn (Config.fcvtInvalid s.drawFree.1 op a))
  else s.drawFree.2.regWrite rd (nonT26fWord s.drawFree.1 op a zeroWord)

/-- FCVTI (R336). -/
def execFcvti (rd rs1 : Reg) (s : State) : Result := .next (s.tfpToInt .fcvti roundNearest rd rs1)

/-- FCVTIZ (R337). -/
def execFcvtiz (rd rs1 : Reg) (s : State) : Result := .next (s.tfpToInt .fcvtiz roundToZero rd rs1)

end Sys2Proof.Machine
end

