-- ==== Sys2Proof/Machine/VecExec.lean ====
section
/-! DEFINITION. The vector extension (47_vector.md R350–R407). No vector instruction reads or writes FLAGS (R352). -/

namespace Sys2Proof.Machine

/-! ### Lane arithmetic, logic, select, compare -/

/-- VADD (R360). -/
def execVadd (vd vs1 vs2 : VReg) (s : State) : Result :=
  .next (s.vregWrite vd (zipTrits (fun a b => clamp (a.val + b.val)) (s.vreg vs1) (s.vreg vs2)))

/-- VSUB (R361). -/
def execVsub (vd vs1 vs2 : VReg) (s : State) : Result :=
  .next (s.vregWrite vd (zipTrits (fun a b => clamp (a.val - b.val)) (s.vreg vs1) (s.vreg vs2)))

/-- The VADD opcode with funct[0] = P (R124, R129). -/
def execIllegalVadd (w : Word) (s : State) : Result := raiseIllegal w s

/-- VMUL (R362); the first instruction of the kernel of R409, `v3[i] ← w[i] × a[i]`. -/
def execVmul (vd vs1 vs2 : VReg) (s : State) : Result :=
  .next (s.vregWrite vd (zipTrits tritMul (s.vreg vs1) (s.vreg vs2)))

/-- VAND (R363). -/
def execVand (vd vs1 vs2 : VReg) (s : State) : Result :=
  .next (s.vregWrite vd (zipTrits (tand s.logicMode) (s.vreg vs1) (s.vreg vs2)))

/-- VOR (R364). -/
def execVor (vd vs1 vs2 : VReg) (s : State) : Result :=
  .next (s.vregWrite vd (zipTrits (tor s.logicMode) (s.vreg vs1) (s.vreg vs2)))

/-- VIMPL (R365). -/
def execVimpl (vd vs1 vs2 : VReg) (s : State) : Result :=
  .next (s.vregWrite vd (zipTrits (timpl s.logicMode) (s.vreg vs1) (s.vreg vs2)))

/-- VNOT (R366). -/
def execVnot (vd vs1 : VReg) (s : State) : Result :=
  .next (s.vregWrite vd (mapTrits (tnot s.logicMode) (s.vreg vs1)))

/-- VCONS: no mode (R367). -/
def execVcons (vd vs1 vs2 : VReg) (s : State) : Result :=
  .next (s.vregWrite vd (zipTrits tcons (s.vreg vs1) (s.vreg vs2)))

/-- VACONS: no mode (R368). -/
def execVacons (vd vs1 vs2 : VReg) (s : State) : Result :=
  .next (s.vregWrite vd (zipTrits tacons (s.vreg vs1) (s.vreg vs2)))

/-- The VLOG opcode with an unassigned selector (R124, R368). -/
def execIllegalVlog (w : Word) (s : State) : Result := raiseIllegal w s

/-- One lane of VSEL (R369). -/
def selectTrit (a b m : Trit) : Trit :=
  match m with
  | .N => a
  | .Z => .Z
  | .P => b

/-- VSEL (R369, log entry 41). -/
def execVsel (vd vs1 vs2 vm : VReg) (s : State) : Result :=
  .next (s.vregWrite vd
    (Trits.ofFn fun i => selectTrit ((s.vreg vs1).get i) ((s.vreg vs2).get i) ((s.vreg vm).get i)))

/-- VCMP (R370). -/
def execVcmp (vd vs1 vs2 : VReg) (s : State) : Result :=
  .next (s.vregWrite vd (zipTrits tritCompare (s.vreg vs1) (s.vreg vs2)))

/-! ### Reductions into a general register -/

/-- VRED.SUM (R371). -/
def execVredSum (rd : Reg) (vs1 : VReg) (s : State) : Result :=
  .next (s.regWrite rd (word (laneSum (s.vreg vs1))))

/-- VRED.SIGN (R372); the second instruction of the kernel of R409, `a0 ← sign(Σ v3[i])`. -/
def execVredSign (rd : Reg) (vs1 : VReg) (s : State) : Result :=
  .next (s.regWrite rd (tritWord (sign (laneSum (s.vreg vs1)))))

/-- The consensus of all lanes; Z lanes abstain (R373). -/
def consensus (x : Word) : Trit :=
  if hasTrit x .P && !hasTrit x .N then .P
  else if hasTrit x .N && !hasTrit x .P then .N
  else .Z

/-- VRED.CONS (R373). -/
def execVredCons (rd : Reg) (vs1 : VReg) (s : State) : Result :=
  .next (s.regWrite rd (tritWord (consensus (s.vreg vs1))))

/-- VRED.LST: the minimum (R374). -/
def execVredLst (rd : Reg) (vs1 : VReg) (s : State) : Result :=
  .next (s.regWrite rd (tritWord (minTrit (s.vreg vs1))))

/-- VRED.MST: the maximum (R375). -/
def execVredMst (rd : Reg) (vs1 : VReg) (s : State) : Result :=
  .next (s.regWrite rd (tritWord (maxTrit (s.vreg vs1))))

/-- VRED.AND (R376). -/
def execVredAnd (rd : Reg) (vs1 : VReg) (s : State) : Result :=
  .next (s.regWrite rd (tritWord (foldTrits (tand s.logicMode) (s.vreg vs1))))

/-- VRED.OR (R377). -/
def execVredOr (rd : Reg) (vs1 : VReg) (s : State) : Result :=
  .next (s.regWrite rd (tritWord (foldTrits (tor s.logicMode) (s.vreg vs1))))

/-- The VRED opcode with an unassigned selector (R124, R377). -/
def execIllegalVred (w : Word) (s : State) : Result := raiseIllegal w s

/-! ### Permutations -/

/-- VROTL (R380). -/
def execVrotl (vd vs1 vs2 : VReg) (s : State) : Result :=
  .next (s.vregWrite vd (rotateTrits (s.vreg vs1) (permAmount (s.vreg vs2))))

/-- VROTR (R381). -/
def execVrotr (vd vs1 vs2 : VReg) (s : State) : Result :=
  .next (s.vregWrite vd (rotateTrits (s.vreg vs1) (-permAmount (s.vreg vs2))))

/-- VSHL (R382). -/
def execVshl (vd vs1 vs2 : VReg) (s : State) : Result :=
  .next (s.vregWrite vd (shiftTrits (s.vreg vs1) (permAmount (s.vreg vs2))))

/-- VSHR (R383). -/
def execVshr (vd vs1 vs2 : VReg) (s : State) : Result :=
  .next (s.vregWrite vd (shiftTrits (s.vreg vs1) (-permAmount (s.vreg vs2))))

/-- VREV (R384). -/
def execVrev (vd vs1 : VReg) (s : State) : Result := .next (s.vregWrite vd (reverseTrits (s.vreg vs1)))

/-- The lane that group `i` of an index vector names (R385). -/
def shuffleLane (idx : Word) (i : Nat) : Nat := (idx.field (3 * i) 3 % 27).toNat

/-- VSHUF: lanes 0..8 as stated, lanes 9..26 open (R385, log entry 13). -/
def execVshuf (vd vs1 vs2 : VReg) (s : State) : Result :=
  let x := s.vreg vs1
  let idx := s.vreg vs2
  .next (s.drawFree.2.vregWrite vd
    (Trits.ofFn fun i =>
      if i < 9 then x.get (shuffleLane idx i) else Config.vshufHighLanes s.drawFree.1 x idx i))

/-- The VPERM opcode with an unassigned selector (R124, R385). -/
def execIllegalVperm (w : Word) (s : State) : Result := raiseIllegal w s

/-! ### Movement between the banks -/

/-- VMOV.GV (R401). -/
def execVmovGv (vd : VReg) (rs1 : Reg) (s : State) : Result := .next (s.vregWrite vd (s.reg rs1))

/-- VMOV.VG (R402). -/
def execVmovVg (rd : Reg) (vs1 : VReg) (s : State) : Result := .next (s.regWrite rd (s.vreg vs1))

/-- VMOV.VV (R403). -/
def execVmovVv (vd vs1 : VReg) (s : State) : Result := .next (s.vregWrite vd (s.vreg vs1))

/-- VBCAST (R404). -/
def execVbcast (vd : VReg) (rs1 : Reg) (s : State) : Result :=
  .next (s.vregWrite vd (Trits.ofFn fun _ => (s.reg rs1).get 0))

/-- VINS; a negative lane index is illegal (R405, R407). -/
def execVins (vd : VReg) (rs1 : Reg) (lane : Int) (ignLo : Trits 3) (ignHi : Trits 8) (s : State) : Result :=
  if lane < 0 then raiseIllegal (encode (.vins vd rs1 lane ignLo ignHi)) s
  else .next (s.vregWrite vd (put (s.vreg vd) lane.toNat ((s.reg rs1).get 0)))

/-- VEXT; a negative lane index is illegal (R406, R407). -/
def execVext (rd : Reg) (vs1 : VReg) (lane : Int) (ignLo : Trits 3) (ignHi : Trits 8) (s : State) : Result :=
  if lane < 0 then raiseIllegal (encode (.vext rd vs1 lane ignLo ignHi)) s
  else .next (s.regWrite rd (tritWord ((s.vreg vs1).get lane.toNat)))

/-- The VMOVE opcode with an unassigned selector (R124, R400). -/
def execIllegalVmove (w : Word) (s : State) : Result := raiseIllegal w s

end Sys2Proof.Machine
end

