-- ==== Sys2Proof/Machine/Dispatch.lean ====
section
/-! DEFINITION. Which meaning each instruction has: one arm per constructor of `Instr`. -/

namespace Sys2Proof.Machine

def exec (i : Instr) (s : State) : Host.Outcome State Fault Refusal :=
  match i with
  | .add rd rs1 rs2 => Sys2Proof.Machine.execAdd rd rs1 rs2 s
  | .adds rd rs1 rs2 => Sys2Proof.Machine.execAdds rd rs1 rs2 s
  | .adc rd rs1 rs2 => Sys2Proof.Machine.execAdc rd rs1 rs2 s
  | .sub rd rs1 rs2 => Sys2Proof.Machine.execSub rd rs1 rs2 s
  | .subs rd rs1 rs2 => Sys2Proof.Machine.execSubs rd rs1 rs2 s
  | .sbc rd rs1 rs2 => Sys2Proof.Machine.execSbc rd rs1 rs2 s
  | .mul rd rs1 rs2 => Sys2Proof.Machine.execMul rd rs1 rs2 s
  | .mulh rd rs1 rs2 => Sys2Proof.Machine.execMulh rd rs1 rs2 s
  | .illegalMul w => Sys2Proof.Machine.execIllegalMul w s
  | .div rd rs1 rs2 => Sys2Proof.Machine.execDiv rd rs1 rs2 s
  | .mod rd rs1 rs2 => Sys2Proof.Machine.execMod rd rs1 rs2 s
  | .neg rd rs1 => Sys2Proof.Machine.execNeg rd rs1 s
  | .tand rd rs1 rs2 => Sys2Proof.Machine.execTand rd rs1 rs2 s
  | .tor rd rs1 rs2 => Sys2Proof.Machine.execTor rd rs1 rs2 s
  | .tnot rd rs1 => Sys2Proof.Machine.execTnot rd rs1 s
  | .timpl rd rs1 rs2 => Sys2Proof.Machine.execTimpl rd rs1 rs2 s
  | .cons rd rs1 rs2 => Sys2Proof.Machine.execCons rd rs1 rs2 s
  | .acons rd rs1 rs2 => Sys2Proof.Machine.execAcons rd rs1 rs2 s
  | .tshift rd rs1 rs2 => Sys2Proof.Machine.execTshift rd rs1 rs2 s
  | .tcmp rd rs1 rs2 => Sys2Proof.Machine.execTcmp rd rs1 rs2 s
  | .load rd rs1 imm => Sys2Proof.Machine.execLoad rd rs1 imm s
  | .store rsrc rs1 imm => Sys2Proof.Machine.execStore rsrc rs1 imm s
  | .li rd imm => Sys2Proof.Machine.execLi rd imm s
  | .lui rd imm => Sys2Proof.Machine.execLui rd imm s
  | .addi rd rs1 imm => Sys2Proof.Machine.execAddi rd rs1 imm s
  | .brt3 rX offZ offN => Sys2Proof.Machine.execBrt3 rX offZ offN s
  | .cmpi rs1 imm => Sys2Proof.Machine.execCmpi rs1 imm s
  | .beq rs1 off => Sys2Proof.Machine.execBeq rs1 off s
  | .bne rs1 off => Sys2Proof.Machine.execBne rs1 off s
  | .blt rs1 off => Sys2Proof.Machine.execBlt rs1 off s
  | .bgt rs1 off => Sys2Proof.Machine.execBgt rs1 off s
  | .ble rs1 off => Sys2Proof.Machine.execBle rs1 off s
  | .bge rs1 off => Sys2Proof.Machine.execBge rs1 off s
  | .jmpa rs1 off => Sys2Proof.Machine.execJmpa rs1 off s
  | .bf mN mZ mP off => Sys2Proof.Machine.execBf mN mZ mP off s
  | .jmp off => Sys2Proof.Machine.execJmp off s
  | .call off => Sys2Proof.Machine.execCall off s
  | .csrr rd csr ignLo ignHi => Sys2Proof.Machine.execCsrr rd csr ignLo ignHi s
  | .csrw csr rs1 ignLo ignHi => Sys2Proof.Machine.execCsrw csr rs1 ignLo ignHi s
  | .csrx rd rs1 csr ignHi => Sys2Proof.Machine.execCsrx rd rs1 csr ignHi s
  | .ecall => Sys2Proof.Machine.execEcall s
  | .hcall => Sys2Proof.Machine.execHcall s
  | .dbgbrk => Sys2Proof.Machine.execDbgbrk s
  | .iret => Sys2Proof.Machine.execIret s
  | .tsel rd rn rz rp => Sys2Proof.Machine.execTsel rd rn rz rp s
  | .nop => Sys2Proof.Machine.execNop s
  | .halt => Sys2Proof.Machine.execHalt s
  | .tget rd rs1 rs2 => Sys2Proof.Machine.execTget rd rs1 rs2 s
  | .tsetn rd rs1 rs2 => Sys2Proof.Machine.execTsetn rd rs1 rs2 s
  | .tsetz rd rs1 rs2 => Sys2Proof.Machine.execTsetz rd rs1 rs2 s
  | .tsetp rd rs1 rs2 => Sys2Proof.Machine.execTsetp rd rs1 rs2 s
  | .tsign rd rs1 => Sys2Proof.Machine.execTsign rd rs1 s
  | .cmp rs1 rs2 => Sys2Proof.Machine.execCmp rs1 rs2 s
  | .tabs rd rs1 => Sys2Proof.Machine.execTabs rd rs1 s
  | .tmin rd rs1 => Sys2Proof.Machine.execTmin rd rs1 s
  | .tmax rd rs1 => Sys2Proof.Machine.execTmax rd rs1 s
  | .fadd rd rs1 rs2 => Sys2Proof.Machine.execFadd rd rs1 rs2 s
  | .fsub rd rs1 rs2 => Sys2Proof.Machine.execFsub rd rs1 rs2 s
  | .fmul rd rs1 rs2 => Sys2Proof.Machine.execFmul rd rs1 rs2 s
  | .fdiv rd rs1 rs2 => Sys2Proof.Machine.execFdiv rd rs1 rs2 s
  | .fcmp rs1 rs2 => Sys2Proof.Machine.execFcmp rs1 rs2 s
  | .ficvt rd rs1 => Sys2Proof.Machine.execFicvt rd rs1 s
  | .fcvti rd rs1 => Sys2Proof.Machine.execFcvti rd rs1 s
  | .fcvtiz rd rs1 => Sys2Proof.Machine.execFcvtiz rd rs1 s
  | .vadd vd vs1 vs2 => Sys2Proof.Machine.execVadd vd vs1 vs2 s
  | .vsub vd vs1 vs2 => Sys2Proof.Machine.execVsub vd vs1 vs2 s
  | .illegalVadd w => Sys2Proof.Machine.execIllegalVadd w s
  | .vmul vd vs1 vs2 => Sys2Proof.Machine.execVmul vd vs1 vs2 s
  | .vand vd vs1 vs2 => Sys2Proof.Machine.execVand vd vs1 vs2 s
  | .vor vd vs1 vs2 => Sys2Proof.Machine.execVor vd vs1 vs2 s
  | .vimpl vd vs1 vs2 => Sys2Proof.Machine.execVimpl vd vs1 vs2 s
  | .vnot vd vs1 => Sys2Proof.Machine.execVnot vd vs1 s
  | .vcons vd vs1 vs2 => Sys2Proof.Machine.execVcons vd vs1 vs2 s
  | .vacons vd vs1 vs2 => Sys2Proof.Machine.execVacons vd vs1 vs2 s
  | .illegalVlog w => Sys2Proof.Machine.execIllegalVlog w s
  | .vsel vd vs1 vs2 vm => Sys2Proof.Machine.execVsel vd vs1 vs2 vm s
  | .vcmp vd vs1 vs2 => Sys2Proof.Machine.execVcmp vd vs1 vs2 s
  | .vredSum rd vs1 => Sys2Proof.Machine.execVredSum rd vs1 s
  | .vredSign rd vs1 => Sys2Proof.Machine.execVredSign rd vs1 s
  | .vredCons rd vs1 => Sys2Proof.Machine.execVredCons rd vs1 s
  | .vredLst rd vs1 => Sys2Proof.Machine.execVredLst rd vs1 s
  | .vredMst rd vs1 => Sys2Proof.Machine.execVredMst rd vs1 s
  | .vredAnd rd vs1 => Sys2Proof.Machine.execVredAnd rd vs1 s
  | .vredOr rd vs1 => Sys2Proof.Machine.execVredOr rd vs1 s
  | .illegalVred w => Sys2Proof.Machine.execIllegalVred w s
  | .vrotl vd vs1 vs2 => Sys2Proof.Machine.execVrotl vd vs1 vs2 s
  | .vrotr vd vs1 vs2 => Sys2Proof.Machine.execVrotr vd vs1 vs2 s
  | .vshl vd vs1 vs2 => Sys2Proof.Machine.execVshl vd vs1 vs2 s
  | .vshr vd vs1 vs2 => Sys2Proof.Machine.execVshr vd vs1 vs2 s
  | .vrev vd vs1 => Sys2Proof.Machine.execVrev vd vs1 s
  | .vshuf vd vs1 vs2 => Sys2Proof.Machine.execVshuf vd vs1 vs2 s
  | .illegalVperm w => Sys2Proof.Machine.execIllegalVperm w s
  | .vmovGv vd rs1 => Sys2Proof.Machine.execVmovGv vd rs1 s
  | .vmovVg rd vs1 => Sys2Proof.Machine.execVmovVg rd vs1 s
  | .vmovVv vd vs1 => Sys2Proof.Machine.execVmovVv vd vs1 s
  | .vbcast vd rs1 => Sys2Proof.Machine.execVbcast vd rs1 s
  | .vins vd rs1 lane ignLo ignHi => Sys2Proof.Machine.execVins vd rs1 lane ignLo ignHi s
  | .vext rd vs1 lane ignLo ignHi => Sys2Proof.Machine.execVext rd vs1 lane ignLo ignHi s
  | .illegalVmove w => Sys2Proof.Machine.execIllegalVmove w s
  | .reservedOpcode w => Sys2Proof.Machine.execReservedOpcode w s
  | .customOpcode w => Sys2Proof.Machine.execCustomOpcode w s

end Sys2Proof.Machine
end

