-- ==== Sys2Proof/Machine/Step.lean ====
section
/-! DEFINITION. One step of the processor (60_exceptions.md R440): interrupt check, fetch, decode, execute. -/

namespace Sys2Proof.Machine

/-- One `Step` (R440). A halted processor does nothing (R266); a STATUS to which the spec gives no behaviour gives
the step no meaning (R36). -/
def step (s : State) : Host.Outcome State Fault Refusal :=
  if s.halted then .next s
  else
    match statusRefusal s.status with
    | some r => .refused r
    | none =>
      let lines := s.sampleLines.1
      let t := s.sampleLines.2
      match t.interruptLine lines with
      | some k => .next (t.trap (irqCause k) zeroWord t.pc)
      | none =>
        match t.fetch with
        | .error stop => finish t (.error stop)
        | .ok w => exec (decode w) t

/-- `s` with the word numbered `w` at the address the next fetch reads: the load of a program from outside (log entry 1). -/
def State.withFetchWord (s : State) (_nbits w : Nat) : State :=
  { s with mem := s.mem.write s.pc.val (wordOfNat w) }

end Sys2Proof.Machine
end

