-- ==== Sys2Proof/Safety.lean ====
section
/-! DEFINITION. The terms the statements use: the invariant of the machine, what an instruction leaves unchanged, and
how the outcome of an instruction is described. -/

namespace Sys2Proof.Machine

/-- What every step keeps: the memory in canonical form (log entry 6), a STATUS the spec gives a behaviour (R36), the
stored r0 zero (R21), every MPU size exponent in 0..26 (R39, R88). -/
structure State.Inv (s : State) : Prop where
  memory : s.mem.wf = true
  status : statusLegal s.status = true
  zero : s.regs[0] = zeroWord
  sizes : ∀ d ∈ s.mpu.toList, inRange 0 26 d.size.val = true

/-! ### Frames -/

/-- Every address reads as before. -/
def SameMemory (s t : State) : Prop := ∀ a : Int, t.mem.read a = s.mem.read a

/-- Nothing but pc may differ. -/
def FramePc (s t : State) : Prop := t = { s with pc := t.pc } ∧ SameMemory s t

/-- Nothing but FLAGS and pc may differ. -/
def FrameFlags (s t : State) : Prop :=
  t = { s with flagSign := t.flagSign, flagCarry := t.flagCarry, pc := t.pc } ∧ SameMemory s t

/-- Nothing but the general register `rd` and pc may differ. -/
def FrameReg (s t : State) (rd : Reg) : Prop :=
  t = { s with regs := t.regs, pc := t.pc } ∧ (∀ r, r ≠ rd → t.reg r = s.reg r) ∧ SameMemory s t

/-- Nothing but the general register `rd`, FLAGS and pc may differ. -/
def FrameRegFlags (s t : State) (rd : Reg) : Prop :=
  t = { s with regs := t.regs, flagSign := t.flagSign, flagCarry := t.flagCarry, pc := t.pc } ∧
    (∀ r, r ≠ rd → t.reg r = s.reg r) ∧ SameMemory s t

/-- Nothing but the vector register `vd` and pc may differ. -/
def FrameVreg (s t : State) (vd : VReg) : Prop :=
  t = { s with vregs := t.vregs, pc := t.pc } ∧ (∀ r, r ≠ vd → t.vreg r = s.vreg r) ∧ SameMemory s t

/-! ### Outcomes -/

/-- `pc <- wrap_27(pc + 1)` (R26, R27). -/
def Advances (s t : State) : Prop := t.pc.val = wrap 27 (s.pc.val + 1)

/-- Register `rd` holds a word of value `n`; r0 reads as zero whatever was written (R21). -/
def RegHolds (t : State) (rd : Reg) (n : Int) : Prop := (t.reg rd).val = if rd = 0 then 0 else n

/-- Register `rd` holds the word whose trit `i` is `f i`; r0 reads as zero (R21). -/
def RegTrits (t : State) (rd : Reg) (f : Nat → Trit) : Prop :=
  ∀ i, i < 27 → (t.reg rd).get i = if rd = 0 then .Z else f i

/-- An instruction that wrote the value `n` to `rd` and moved on. -/
def WroteReg (s t : State) (rd : Reg) (n : Int) : Prop := RegHolds t rd n ∧ FrameReg s t rd ∧ Advances s t

/-- An ALU instruction that wrote the value `n` to `rd`, the sign of `n` and the carry of integer value `c`, and moved on. -/
def WroteAlu (s t : State) (rd : Reg) (n c : Int) : Prop :=
  RegHolds t rd n ∧ t.flagSign = sign n ∧ t.flagCarry.val = c ∧ FrameRegFlags s t rd ∧ Advances s t

/-- A trit-wise ALU instruction: trit `i` of `rd` is `f i`, FLAGS.sign that of the word, carry Z, and moved on. -/
def WroteAluTrits (s t : State) (rd : Reg) (f : Nat → Trit) : Prop :=
  RegTrits t rd f ∧ t.flagSign = sign (sumTrits f 27) ∧ t.flagCarry = .Z ∧ FrameRegFlags s t rd ∧ Advances s t

/-- A vector instruction: lane `i` of `vd` is `f i`, FLAGS untouched, and moved on. -/
def WroteLanes (s t : State) (vd : VReg) (f : Nat → Trit) : Prop :=
  (∀ i, i < 27 → (t.vreg vd).get i = f i) ∧ FrameVreg s t vd ∧ Advances s t

/-- An instruction that wrote FLAGS only, and moved on. -/
def WroteFlags (s t : State) (sgn : Trit) (c : Int) : Prop :=
  t.flagSign = sgn ∧ t.flagCarry.val = c ∧ FrameFlags s t ∧ Advances s t

/-- A TFP instruction that wrote the word `w` to `rd` and FLAGS by the class of `w` (R322), and moved on. -/
def WroteTfp (s t : State) (rd : Reg) (w : Word) : Prop :=
  (t.reg rd = if rd = 0 then zeroWord else w) ∧
    (match decodeT26f w with
      | .nar => t.flagSign = .Z ∧ t.flagCarry = .N
      | .inf => t.flagSign = .P ∧ t.flagCarry = .P
      | .zero => t.flagSign = .Z ∧ t.flagCarry = .Z
      | .normal _ => t.flagSign = sign w.val ∧ t.flagCarry = .Z) ∧
    FrameRegFlags s t rd ∧ Advances s t

/-- A control transfer to the 27-trit wrap of `target` that changes nothing else. -/
def WentTo (s t : State) (target : Int) : Prop := t.pc.val = wrap 27 target ∧ FramePc s t

/-- Whether the platform has plain memory at the address and the MPU allows the access (R76–R79). -/
def CanAccess (s : State) (a : Int) (ty : Access) : Prop :=
  s.kindAt a = some .memory ∧ s.mpuCheck a ty = .allow

/-- Whether the mode may name the CSR (R29). -/
def CanName (s : State) (c : Csr) : Prop := s.mode ≠ .P ∨ kernelOnly c = false

/-! ### Reset values -/

/-- Every row of R47 to which the spec gives a value: the CSRs, the MPU descriptors, the latches, the halted flag, pc
and r0. STATUS −1 and the inactive regions are the spec's decisions D2 and D29 (log entry 17), IPENDING as read its
decision D26 (log entry 33). r1..r26, the vector registers and memory have no value in R47 and do not stand here. -/
structure State.AtResetValues (t : State) : Prop where
  pc : t.pc.val = 0
  r0 : t.reg 0 = zeroWord
  lmode : t.lmode.val = 0
  flagSign : t.flagSign = .Z
  flagCarry : t.flagCarry = .Z
  mainBank : t.epc.val = 0 ∧ t.ecause.val = 0 ∧ t.evec.val = 0 ∧ t.esave.val = 0 ∧ t.etval.val = 0
  frame2Bank : t.epc2.val = 0 ∧ t.ecause2.val = 0 ∧ t.esave2.val = 0 ∧ t.etval2.val = 0
  status : t.status.val = -1
  mpuSelect : t.mpuSelect.val = 0
  mpu : ∀ i : Fin 9, t.mpu[i].valid = .N ∧ t.mpu[i].base.val = 0 ∧ t.mpu[i].permR = .Z ∧ t.mpu[i].permW = .Z ∧
    t.mpu[i].permX = .Z ∧ t.mpu[i].size.val = 0
  ienable : ∀ k : Fin 9, t.ienable[k] = false
  ipriority : t.ipriority.val = 0
  swpend : ∀ k : Fin 9, t.swpend[k] = false
  ipending : ∀ i, (t.csrRead .ipending).1.get i =
    if h : i < 9 then (if t.sampleLines.1[i] then .P else .Z) else .Z
  halted : t.halted = false

/-! ### What only the kernel may change -/

/-- Every kernel-only CSR (R29), the MPU descriptors and the latches are as before. -/
def SameKernelState (s t : State) : Prop :=
  t.status = s.status ∧ t.evec = s.evec ∧ t.epc = s.epc ∧ t.ecause = s.ecause ∧ t.esave = s.esave ∧
    t.etval = s.etval ∧ t.epc2 = s.epc2 ∧ t.ecause2 = s.ecause2 ∧ t.esave2 = s.esave2 ∧ t.etval2 = s.etval2 ∧
    t.mpuSelect = s.mpuSelect ∧ t.mpu = s.mpu ∧ t.swpend = s.swpend ∧ t.ienable = s.ienable ∧
    t.ipriority = s.ipriority

/-! ### CSR values a write accepts -/

/-- Whether CSRW of `v` to a CSR is given an effect and raises nothing (R267, R36, R37, R39). -/
def csrAccepts (c : Csr) (v : Word) : Bool :=
  match c with
  | .pc => false
  | .status => statusLegal v
  | .mpuSelect => inRange 0 8 v.val
  | .mpuCfg => configLegal v
  | .lmode | .flags | .epc | .ecause | .evec | .esave | .etval => true
  | .epc2 | .ecause2 | .esave2 | .etval2 => true
  | .mpuBase | .ipending | .ienable | .ipriority | .reserved _ => true

/-- Whether the CSR is a plain word that stores all 27 trits of what is written (R31, R33, R34, R43). -/
def csrPlain : Csr → Bool
  | .lmode | .epc | .ecause | .evec | .esave | .etval | .epc2 | .ecause2 | .esave2 | .etval2 | .ipriority => true
  | .pc | .flags | .status | .mpuSelect | .mpuBase | .mpuCfg | .ipending | .ienable | .reserved _ => false

end Sys2Proof.Machine
end

