-- ==== Sys2Proof/Certificates/Slice0/Obligations.lean ====
section
/-! DEFINITION. The statements for the provers. Each docstring names the rules of spec/ it rests on; a clause that is
the model's own choice says so and names its log entry. -/

open Sys2Proof Sys2Proof.Machine

/-! ### Arithmetic -/

/-- The trit adder (R142): the printed table, its symmetry, and the three-input adder in integers. -/
def Obligations.AdderTable : Prop :=
  (tritAdd .N .N = (.P, .N) ∧ tritAdd .N .Z = (.N, .Z) ∧ tritAdd .N .P = (.Z, .Z) ∧
    tritAdd .Z .Z = (.Z, .Z) ∧ tritAdd .Z .P = (.P, .Z) ∧ tritAdd .P .P = (.N, .P)) ∧
  (∀ a b, tritAdd a b = tritAdd b a) ∧
  ∀ a b c, (fullAdd a b c).1.val = wrap 1 (a.val + b.val + c.val) ∧
    (fullAdd a b c).2.val = carry 1 (a.val + b.val + c.val)

/-- The 27 chained trit adders compute the integer sum (R143), and they are what ADD, ADC and SUB write: the sum
trits to rd and the carry-out of position 26 to FLAGS.carry, SUB adding the trit-inverted operand. -/
def Obligations.AddersAgreeWithIntegers : Prop :=
  (∀ (a b : Word) (c : Trit),
    (rippleSum a b c).val = wrap 27 (a.val + b.val + c.val) ∧
    (rippleCarryOut a b c).val = carry 27 (a.val + b.val + c.val) ∧
    a.val + b.val + c.val = (rippleSum a b c).val + pow3 27 * (rippleCarryOut a b c).val) ∧
  ∀ (rd rs1 rs2 : Reg) (s : State),
    (∃ t, exec (.add rd rs1 rs2) s = .next t ∧
      (t.reg rd = if rd = 0 then zeroWord else rippleSum (s.reg rs1) (s.reg rs2) .Z) ∧
      t.flagCarry = rippleCarryOut (s.reg rs1) (s.reg rs2) .Z) ∧
    (∃ t, exec (.adc rd rs1 rs2) s = .next t ∧
      (t.reg rd = if rd = 0 then zeroWord else rippleSum (s.reg rs1) (s.reg rs2) s.flagCarry) ∧
      t.flagCarry = rippleCarryOut (s.reg rs1) (s.reg rs2) s.flagCarry) ∧
    (∃ t, exec (.sub rd rs1 rs2) s = .next t ∧
      (t.reg rd = if rd = 0 then zeroWord
        else rippleSum (s.reg rs1) (mapTrits tritNeg (s.reg rs2)) .Z) ∧
      t.flagCarry = rippleCarryOut (s.reg rs1) (mapTrits tritNeg (s.reg rs2)) .Z)

/-- ADD, ADC, SUB, SBC (R150, R152, R153, R155, R141): the wrapped sum, its sign, the carry out. ADDS, SUBS (R151, R154):
the clamped sum, carry Z. NEG (R160): the exact negation, carry Z. All: rd and FLAGS written, nothing else but pc. -/
def Obligations.AddSubNegate : Prop :=
  ∀ (rd rs1 rs2 : Reg) (s : State),
    (∃ t, exec (.add rd rs1 rs2) s = .next t ∧
      WroteAlu s t rd (wrap 27 ((s.reg rs1).val + (s.reg rs2).val))
        (carry 27 ((s.reg rs1).val + (s.reg rs2).val))) ∧
    (∃ t, exec (.adc rd rs1 rs2) s = .next t ∧
      WroteAlu s t rd (wrap 27 ((s.reg rs1).val + (s.reg rs2).val + s.flagCarry.val))
        (carry 27 ((s.reg rs1).val + (s.reg rs2).val + s.flagCarry.val))) ∧
    (∃ t, exec (.sub rd rs1 rs2) s = .next t ∧
      WroteAlu s t rd (wrap 27 ((s.reg rs1).val - (s.reg rs2).val))
        (carry 27 ((s.reg rs1).val - (s.reg rs2).val))) ∧
    (∃ t, exec (.sbc rd rs1 rs2) s = .next t ∧
      WroteAlu s t rd (wrap 27 ((s.reg rs1).val - (s.reg rs2).val - s.flagCarry.val))
        (carry 27 ((s.reg rs1).val - (s.reg rs2).val - s.flagCarry.val))) ∧
    (∃ t, exec (.adds rd rs1 rs2) s = .next t ∧
      WroteAlu s t rd (max (-3812798742493) (min 3812798742493 ((s.reg rs1).val + (s.reg rs2).val))) 0) ∧
    (∃ t, exec (.subs rd rs1 rs2) s = .next t ∧
      WroteAlu s t rd (max (-3812798742493) (min 3812798742493 ((s.reg rs1).val - (s.reg rs2).val))) 0) ∧
    (∃ t, exec (.neg rd rs1) s = .next t ∧ WroteAlu s t rd (-(s.reg rs1).val) 0)

/-- MUL and MULH (R145, R156, R157): together the two words are the exact product. -/
def Obligations.MultiplyLowAndHigh : Prop :=
  ∀ (rd rs1 rs2 : Reg) (s : State),
    ∃ lo hi : Int, -H ≤ lo ∧ lo ≤ H ∧ -H ≤ hi ∧ hi ≤ H ∧
      (s.reg rs1).val * (s.reg rs2).val = lo + 7625597484987 * hi ∧
      (∃ t, exec (.mul rd rs1 rs2) s = .next t ∧ WroteAlu s t rd lo 0) ∧
      (∃ t, exec (.mulh rd rs1 rs2) s = .next t ∧ WroteAlu s t rd hi 0)

/-- DIV and MOD by a non-zero divisor (R146, R158, R159): the quotient to the nearest integer, ties toward zero, the
remainder at most half the divisor in magnitude, and the frame. -/
def Obligations.DivideToNearest : Prop :=
  ∀ (rd rs1 rs2 : Reg) (s : State), (s.reg rs2).val ≠ 0 →
    ∃ q r : Int, (s.reg rs1).val = q * (s.reg rs2).val + r ∧ 2 * |r| ≤ |(s.reg rs2).val| ∧
      (2 * |r| = |(s.reg rs2).val| → |q * (s.reg rs2).val| ≤ |(s.reg rs1).val|) ∧
      (∃ t, exec (.div rd rs1 rs2) s = .next t ∧ WroteAlu s t rd q 0) ∧
      (∃ t, exec (.mod rd rs1 rs2) s = .next t ∧ WroteAlu s t rd r 0)

/-- DIV and MOD by zero take EXC_DIV0 with trap value 0 and EPC the address of the instruction (R146, R158, R420);
that MOD does is decision D16 of the spec (log entry 28). -/
def Obligations.DivideByZeroTraps : Prop :=
  ∀ (rd rs1 rs2 : Reg) (s : State), (s.reg rs2).val = 0 →
    exec (.div rd rs1 rs2) s = .next (s.trap (-13) zeroWord s.pc) ∧
    exec (.mod rd rs1 rs2) s = .next (s.trap (-13) zeroWord s.pc)

/-! ### Logic -/

/-- The logic in force (R181), at reset included. -/
def Obligations.LogicModeSelection : Prop :=
  (∀ s : State, s.lmode.get 0 = .Z → s.logicMode = .kleene) ∧
  (∀ s : State, s.lmode.get 0 = .P → s.logicMode = .b3) ∧
  (∀ s : State, s.lmode.get 0 = .N → s.status.get 2 = .N → s.logicMode = .heyting) ∧
  (∀ s : State, s.lmode.get 0 = .N → s.status.get 2 = .Z → s.logicMode = .lukasiewicz) ∧
  (∀ s : State, s.lmode.get 0 = .N → s.status.get 2 = .P → s.logicMode = .rm3) ∧
  State.reset.logicMode = .kleene

/-- AND and OR in closed form (R190, R191), NOT (R192), consensus and anti-consensus cell by cell (R195). -/
def Obligations.LogicTables : Prop :=
  (∀ m a b, m ≠ .b3 → (tand m a b).val = min a.val b.val ∧ (tor m a b).val = max a.val b.val) ∧
  (∀ a b, (a = .Z ∨ b = .Z) → tand .b3 a b = .Z ∧ tor .b3 a b = .Z) ∧
  (∀ a b, a ≠ .Z → b ≠ .Z →
    (tand .b3 a b).val = min a.val b.val ∧ (tor .b3 a b).val = max a.val b.val) ∧
  (∀ m a, m ≠ .heyting → (tnot m a).val = -a.val) ∧
  (tnot .heyting .N = .P ∧ tnot .heyting .Z = .N ∧ tnot .heyting .P = .N) ∧
  (∀ a, tcons a a = a ∧ tacons a a = .Z) ∧ (∀ a b, a ≠ b → tcons a b = .Z) ∧
  (tacons .N .Z = .P ∧ tacons .Z .N = .P ∧ tacons .Z .P = .N ∧ tacons .P .Z = .N ∧ tacons .N .P = .Z ∧
    tacons .P .N = .Z)

/-- The five implications (R193): each formula of the source, the RM3 table cell by cell, and that the five tables are
pairwise different. -/
def Obligations.ImplicationTables : Prop :=
  (∀ a b, (timpl .kleene a b).val = max (-a.val) b.val) ∧
  (∀ a b, (timpl .lukasiewicz a b).val = min 1 (-a.val + b.val + 1) ∧
    (timpl .lukasiewicz a b = .P ↔ a.val ≤ b.val)) ∧
  (∀ a b, (tand .heyting a (timpl .heyting a b)).val ≤ b.val ∧
    ∀ c, (tand .heyting a c).val ≤ b.val → c.val ≤ (timpl .heyting a b).val) ∧
  (∀ b, timpl .rm3 .N b = .P) ∧ (∀ b, timpl .rm3 .Z b = b) ∧
  (timpl .rm3 .P .N = .N ∧ timpl .rm3 .P .Z = .N ∧ timpl .rm3 .P .P = .P) ∧
  (∀ a b, timpl .b3 a b = tor .b3 (tnot .b3 a) b) ∧
  (∀ m n, m ≠ n → ∃ a b, timpl m a b ≠ timpl n a b)

/-- TAND, TOR, TNOT, TIMPL (R180, R182–R185): every result trit by the table of the mode in force; CONS and ACONS (R186,
R187, R195): by their tables whatever the mode. FLAGS.sign the sign of the word, carry Z, and the frame. -/
def Obligations.LogicResult : Prop :=
  ∀ (rd rs1 rs2 : Reg) (s : State),
    (∃ t, exec (.tand rd rs1 rs2) s = .next t ∧
      WroteAluTrits s t rd (fun i => tand s.logicMode ((s.reg rs1).get i) ((s.reg rs2).get i))) ∧
    (∃ t, exec (.tor rd rs1 rs2) s = .next t ∧
      WroteAluTrits s t rd (fun i => tor s.logicMode ((s.reg rs1).get i) ((s.reg rs2).get i))) ∧
    (∃ t, exec (.tnot rd rs1) s = .next t ∧
      WroteAluTrits s t rd (fun i => tnot s.logicMode ((s.reg rs1).get i))) ∧
    (∃ t, exec (.timpl rd rs1 rs2) s = .next t ∧
      WroteAluTrits s t rd (fun i => timpl s.logicMode ((s.reg rs1).get i) ((s.reg rs2).get i))) ∧
    (∃ t, exec (.cons rd rs1 rs2) s = .next t ∧
      WroteAluTrits s t rd (fun i => tcons ((s.reg rs1).get i) ((s.reg rs2).get i))) ∧
    (∃ t, exec (.acons rd rs1 rs2) s = .next t ∧
      WroteAluTrits s t rd (fun i => tacons ((s.reg rs1).get i) ((s.reg rs2).get i)))

/-- TSHIFT (R188): a left shift multiplies by a power of three and wraps, a right shift divides to the nearest
integer, 27 places or more leave 0. -/
def Obligations.ShiftResult : Prop :=
  ∀ (rd rs1 rs2 : Reg) (s : State),
    ∃ t, exec (.tshift rd rs1 rs2) s = .next t ∧
      WroteAlu s t rd
        (if 27 ≤ |(s.reg rs2).val| then 0
         else if 0 ≤ (s.reg rs2).val then wrap 27 ((s.reg rs1).val * pow3 (s.reg rs2).val.toNat)
         else carry (s.reg rs2).val.natAbs (s.reg rs1).val) 0

/-- TCMP (R189): trit by trit, and FLAGS.sign orders the two operands as integers. -/
def Obligations.TritCompareOrders : Prop :=
  ∀ (rd rs1 rs2 : Reg) (s : State),
    ∃ t, exec (.tcmp rd rs1 rs2) s = .next t ∧
      WroteAluTrits s t rd (fun i => sign (((s.reg rs1).get i).val - ((s.reg rs2).get i).val)) ∧
      t.flagSign = sign ((s.reg rs1).val - (s.reg rs2).val)

/-! ### Memory and immediates -/

/-- LI, LUI, ADDI (R212, R213, R214, R219): the value, FLAGS untouched, and the frame. -/
def Obligations.ImmediateResult : Prop :=
  ∀ (rd rs1 : Reg) (imm : Int) (s : State), -64570081 ≤ imm → imm ≤ 64570081 →
    (∃ t, exec (.li rd imm) s = .next t ∧ WroteReg s t rd imm) ∧
    (∃ t, exec (.lui rd imm) s = .next t ∧ WroteReg s t rd (imm * 59049)) ∧
    (∃ t, exec (.addi rd rs1 imm) s = .next t ∧ WroteReg s t rd (wrap 27 ((s.reg rs1).val + imm)))

/-- LOAD (R210, R218, R76): the word at the wrapped effective address, FLAGS untouched, and the frame. -/
def Obligations.LoadResult : Prop :=
  ∀ (rd rs1 : Reg) (imm : Int) (s : State),
    (s.effectiveAddress rs1 imm).val = wrap 27 ((s.reg rs1).val + imm) ∧
    (CanAccess s (s.effectiveAddress rs1 imm).val .read →
      ∃ t, exec (.load rd rs1 imm) s = .next t ∧
        (t.reg rd = if rd = 0 then zeroWord else s.mem.read (s.effectiveAddress rs1 imm).val) ∧
        FrameReg s t rd ∧ Advances s t)

/-- STORE (R211, R218, R77): the addressed word holds the register, every other address, every register and every
other piece of state is as before. The first clause of the memory needs its canonical form (log entry 6). -/
def Obligations.StoreResult : Prop :=
  ∀ (rsrc rs1 : Reg) (imm : Int) (s : State), CanAccess s (s.effectiveAddress rs1 imm).val .write →
    ∃ t, exec (.store rsrc rs1 imm) s = .next t ∧ Advances s t ∧ t = { s with mem := t.mem, pc := t.pc } ∧
      (s.mem.wf = true → t.mem.read (s.effectiveAddress rs1 imm).val = s.reg rsrc) ∧
      ∀ a : Int, a ≠ (s.effectiveAddress rs1 imm).val → t.mem.read a = s.mem.read a

/-- LOAD and STORE that cannot access their address (R76, R77, R84, R420): EXC_FAULT where nothing exists, else EXC_PERM_R
or EXC_PERM_W where the MPU denies, with the effective address as trap value. A fetch that cannot be made (R78, R435):
EXC_FAULT, else EXC_PERM_X, with the pc as EPC and as trap value. -/
def Obligations.AccessTraps : Prop :=
  (∀ (rd rs1 : Reg) (imm : Int) (s : State),
    (s.kindAt (s.effectiveAddress rs1 imm).val = none →
      exec (.load rd rs1 imm) s = .next (s.trap (-11) (s.effectiveAddress rs1 imm) s.pc) ∧
      exec (.store rd rs1 imm) s = .next (s.trap (-11) (s.effectiveAddress rs1 imm) s.pc)) ∧
    (s.kindAt (s.effectiveAddress rs1 imm).val ≠ none →
      s.mpuCheck (s.effectiveAddress rs1 imm).val .read = .deny →
      exec (.load rd rs1 imm) s = .next (s.trap (-9) (s.effectiveAddress rs1 imm) s.pc)) ∧
    (s.kindAt (s.effectiveAddress rs1 imm).val ≠ none →
      s.mpuCheck (s.effectiveAddress rs1 imm).val .write = .deny →
      exec (.store rd rs1 imm) s = .next (s.trap (-8) (s.effectiveAddress rs1 imm) s.pc))) ∧
  ∀ s : State, s.halted = false → statusLegal s.status = true →
    s.sampleLines.2.interruptLine s.sampleLines.1 = none →
    (s.kindAt s.pc.val = none → step s = .next (s.sampleLines.2.trap (-11) s.pc s.pc)) ∧
    (s.kindAt s.pc.val ≠ none → s.sampleLines.2.mpuCheck s.pc.val .fetch = .deny →
      step s = .next (s.sampleLines.2.trap (-7) s.pc s.pc))

/-- CMP and CMPI (R294, R215): the sign and the carry of the true difference; no register is written. -/
def Obligations.CompareResult : Prop :=
  ∀ (rs1 rs2 : Reg) (imm : Int) (s : State), -64570081 ≤ imm → imm ≤ 64570081 →
    (∃ t, exec (.cmp rs1 rs2) s = .next t ∧
      WroteFlags s t (sign ((s.reg rs1).val - (s.reg rs2).val)) (carry 27 ((s.reg rs1).val - (s.reg rs2).val))) ∧
    (∃ t, exec (.cmpi rs1 imm) s = .next t ∧
      WroteFlags s t (sign ((s.reg rs1).val - imm)) (carry 27 ((s.reg rs1).val - imm)))

/-- `MpuCheck` (R83): the active regions are those whose literal interval holds the address, the lowest index
decides, and with no region kernel mode is allowed and user mode denied. -/
def Obligations.MpuCheckDecides : Prop :=
  ∀ (s : State) (a : Int) (ty : Access),
    (∀ d : MpuDesc, d.covers a = true ↔
      d.valid = .P ∧ d.base.val ≤ a ∧ a < d.base.val + pow3 d.size.val.toNat) ∧
    ((∀ i : Fin 9, s.mpu[i].covers a = false) →
      (s.mode = .N → s.mpuCheck a ty = .allow) ∧ (s.mode = .P → s.mpuCheck a ty = .deny)) ∧
    ∀ i : Fin 9, s.mpu[i].covers a = true → (∀ j : Fin 9, j < i → s.mpu[j].covers a = false) →
      (s.mpu[i].perm ty = .N → s.mode ≠ .Z → s.mpuCheck a ty = .deny) ∧
      (s.mpu[i].perm ty = .Z → (s.mode = .N → s.mpuCheck a ty = .allow) ∧ (s.mode = .P → s.mpuCheck a ty = .deny)) ∧
      (s.mpu[i].perm ty = .P → s.mode ≠ .Z → s.mpuCheck a ty = .allow)

/-- Reading memory after a write (R92): the address written holds the word, every other address is as it was, and the
canonical form stays. -/
def Obligations.MemoryReadAfterWrite : Prop :=
  ∀ (m : Memory) (a v : Word), m.wf = true →
    (m.write a.val v).read a.val = v ∧ (∀ b : Int, b ≠ a.val → (m.write a.val v).read b = m.read b) ∧
      (m.write a.val v).wf = true

/-! ### Branches -/

/-- BEQ, BNE, BLT, BGT, BLE, BGE (R230–R236): the target relative to the branch itself or the next instruction. BF and BRT3
(R239, R240, R241): FLAGS.sign against the mask, a register's least significant trit in three ways; the mask PPP always
branches and ZZZ never does. Nothing but pc changes. -/
def Obligations.BranchResult : Prop :=
  (∀ (rs1 : Reg) (off : Int) (s : State),
    (∃ t, exec (.beq rs1 off) s = .next t ∧
      WentTo s t (if (s.reg rs1).val = 0 then s.pc.val + off else s.pc.val + 1)) ∧
    (∃ t, exec (.bne rs1 off) s = .next t ∧
      WentTo s t (if (s.reg rs1).val ≠ 0 then s.pc.val + off else s.pc.val + 1)) ∧
    (∃ t, exec (.blt rs1 off) s = .next t ∧
      WentTo s t (if (s.reg rs1).val < 0 then s.pc.val + off else s.pc.val + 1)) ∧
    (∃ t, exec (.bgt rs1 off) s = .next t ∧
      WentTo s t (if 0 < (s.reg rs1).val then s.pc.val + off else s.pc.val + 1)) ∧
    (∃ t, exec (.ble rs1 off) s = .next t ∧
      WentTo s t (if (s.reg rs1).val ≤ 0 then s.pc.val + off else s.pc.val + 1)) ∧
    (∃ t, exec (.bge rs1 off) s = .next t ∧
      WentTo s t (if 0 ≤ (s.reg rs1).val then s.pc.val + off else s.pc.val + 1))) ∧
  ∀ (rX : Reg) (mN mZ mP : Trit) (off offZ offN : Int) (s : State),
    (∃ t, exec (.bf mN mZ mP off) s = .next t ∧
      WentTo s t (if (mN = .P ∧ s.flagSign = .N) ∨ (mZ = .P ∧ s.flagSign = .Z) ∨ (mP = .P ∧ s.flagSign = .P)
        then s.pc.val + off else s.pc.val + 1)) ∧
    (∃ t, exec (.bf .P .P .P off) s = .next t ∧ WentTo s t (s.pc.val + off)) ∧
    (∃ t, exec (.bf .Z .Z .Z off) s = .next t ∧ WentTo s t (s.pc.val + 1)) ∧
    (∃ t, exec (.brt3 rX offZ offN) s = .next t ∧
      WentTo s t (match (s.reg rX).get 0 with
        | .P => s.pc.val + 1
        | .Z => s.pc.val + offZ
        | .N => s.pc.val + offN))

/-- JMP, JMPA, CALL (R237, R242, R243): the wrapped target; CALL also links in r1 and in no other register. -/
def Obligations.JumpsAndCall : Prop :=
  ∀ (rs1 : Reg) (off : Int) (s : State),
    (∃ t, exec (.jmp off) s = .next t ∧ WentTo s t (s.pc.val + off)) ∧
    (∃ t, exec (.jmpa rs1 off) s = .next t ∧ WentTo s t ((s.reg rs1).val + off)) ∧
    (∃ t, exec (.call off) s = .next t ∧ RegHolds t 1 (wrap 27 (s.pc.val + 1)) ∧ FrameReg s t 1 ∧
      t.pc.val = wrap 27 (s.pc.val + off))

/-! ### CSRs -/

/-- What a CSR read returns (R267, R30–R44), CSR by CSR, and CSRR (R260): rd gets it; no CSR changes, but a read of
IPENDING takes a sample of the lines (R45). -/
def Obligations.CsrReadResult : Prop :=
  (∀ s : State,
    (s.csrRead .pc).1 = s.pc ∧ (s.csrRead .lmode).1 = s.lmode ∧ (s.csrRead .epc).1 = s.epc ∧
    (s.csrRead .ecause).1 = s.ecause ∧ (s.csrRead .evec).1 = s.evec ∧ (s.csrRead .status).1 = s.status ∧
    (s.csrRead .esave).1 = s.esave ∧ (s.csrRead .etval).1 = s.etval ∧ (s.csrRead .epc2).1 = s.epc2 ∧
    (s.csrRead .ecause2).1 = s.ecause2 ∧ (s.csrRead .esave2).1 = s.esave2 ∧ (s.csrRead .etval2).1 = s.etval2 ∧
    (s.csrRead .ipriority).1 = s.ipriority ∧
    (s.csrRead .flags).1.val = s.flagSign.val + 3 * s.flagCarry.val ∧
    (s.csrRead .mpuSelect).1.val = s.mpuSelect.val ∧
    (s.csrRead .mpuBase).1 = s.mpu[s.mpuSelect].base ∧
    (s.csrRead .mpuCfg).1.val = s.mpu[s.mpuSelect].permR.val + 3 * s.mpu[s.mpuSelect].permW.val +
      9 * s.mpu[s.mpuSelect].permX.val + 27 * s.mpu[s.mpuSelect].size.val + 2187 * s.mpu[s.mpuSelect].valid.val ∧
    (∀ i, (s.csrRead .ienable).1.get i = if h : i < 9 then (if s.ienable[i] then .P else .Z) else .Z) ∧
    (∀ i, (s.csrRead .ipending).1.get i =
      if h : i < 9 then (if s.sampleLines.1[i] || s.swpend[i] then .P else .Z) else .Z) ∧
    (∀ k, (s.csrRead (.reserved k)).1 = zeroWord)) ∧
  ∀ (rd : Reg) (c : Csr) (lo : Trits 3) (hi : Trits 14) (s : State), CanName s c →
    ∃ t, exec (.csrr rd c lo hi) s = .next t ∧
      (t.reg rd = if rd = 0 then zeroWord else (s.csrRead c).1) ∧
      FrameReg (if c = .ipending then { s with irqFeed := s.irqFeed.tail } else s) t rd ∧ Advances s t

/-- CSRW (R261, R267): with a value the CSR accepts, exactly that CSR changes, as its rule says. Choices that the
spec itself made and the model follows: a write to a reserved slot is discarded (D7, log entry 21); of IPENDING only
the latch is written, from trits 0..8, and N changes nothing there or in IENABLE (D26, D35, log entry 33); LMODE stores
all 27 trits and STATUS accepts the legal values (D34, log entries 40 and 8); valid = Z is stored in MPU_CFG (D29, log
entry 36); the ignored trits of the word do not matter (D3, D6, log entries 18 and 20). -/
def Obligations.CsrWriteResult : Prop :=
  ∀ (c : Csr) (rs1 : Reg) (lo : Trits 3) (hi : Trits 14) (s : State), CanName s c → csrAccepts c (s.reg rs1) = true →
    ∃ t, exec (.csrw c rs1 lo hi) s = .next t ∧ Advances s t ∧ (∀ r, t.reg r = s.reg r) ∧ SameMemory s t ∧
      match c with
      | .pc => False
      | .lmode => t = { s with lmode := s.reg rs1, pc := t.pc }
      | .flags => t = { s with flagSign := (s.reg rs1).get 0, flagCarry := (s.reg rs1).get 1, pc := t.pc }
      | .epc => t = { s with epc := s.reg rs1, pc := t.pc }
      | .ecause => t = { s with ecause := s.reg rs1, pc := t.pc }
      | .evec => t = { s with evec := s.reg rs1, pc := t.pc }
      | .status => t = { s with status := s.reg rs1, pc := t.pc }
      | .esave => t = { s with esave := s.reg rs1, pc := t.pc }
      | .etval => t = { s with etval := s.reg rs1, pc := t.pc }
      | .epc2 => t = { s with epc2 := s.reg rs1, pc := t.pc }
      | .ecause2 => t = { s with ecause2 := s.reg rs1, pc := t.pc }
      | .esave2 => t = { s with esave2 := s.reg rs1, pc := t.pc }
      | .etval2 => t = { s with etval2 := s.reg rs1, pc := t.pc }
      | .ipriority => t = { s with ipriority := s.reg rs1, pc := t.pc }
      | .mpuSelect => t = { s with mpuSelect := t.mpuSelect, pc := t.pc } ∧ (t.mpuSelect.val : Int) = (s.reg rs1).val
      | .mpuBase =>
        t = { s with mpu := t.mpu, pc := t.pc } ∧ (∀ i : Fin 9, i ≠ s.mpuSelect → t.mpu[i] = s.mpu[i]) ∧
          t.mpu[s.mpuSelect] = { s.mpu[s.mpuSelect] with base := s.reg rs1 }
      | .mpuCfg =>
        t = { s with mpu := t.mpu, pc := t.pc } ∧ (∀ i : Fin 9, i ≠ s.mpuSelect → t.mpu[i] = s.mpu[i]) ∧
          t.mpu[s.mpuSelect].base = s.mpu[s.mpuSelect].base ∧ (t.csrRead .mpuCfg).1 = s.reg rs1
      | .ipending =>
        t = { s with swpend := t.swpend, pc := t.pc } ∧ ∀ k : Fin 9, t.swpend[k] =
          match (s.reg rs1).get k.val with
          | .P => true
          | .Z => false
          | .N => s.swpend[k]
      | .ienable =>
        t = { s with ienable := t.ienable, pc := t.pc } ∧ ∀ k : Fin 9, t.ienable[k] =
          match (s.reg rs1).get k.val with
          | .P => true
          | .Z => false
          | .N => s.ienable[k]
      | .reserved _ => t = { s with pc := t.pc }

/-- CSRX (R262): rd gets the old value and the CSR is written as CSRW writes it with the old rs1; with rd = rs1 on a
plain CSR the two words are exchanged. That CSRX obeys the privilege rule of CSRR and CSRW and writes whatever rd and
rs1 are is decision D33 of the spec (log entry 23); that its read of IPENDING consumes one sample of the feed, before
the write, is the model's (log entries 4 and 23). -/
def Obligations.CsrExchangeResult : Prop :=
  (∀ (rd rs1 : Reg) (c : Csr) (hi : Trits 14) (s : State), CanName s c → csrAccepts c (s.reg rs1) = true →
    ∃ t u, exec (.csrx rd rs1 c hi) s = .next t ∧
      exec (.csrw c rs1 (enc 0 3) hi) (if c = .ipending then { s with irqFeed := s.irqFeed.tail } else s) = .next u ∧
      (t.reg rd = if rd = 0 then zeroWord else (s.csrRead c).1) ∧ FrameReg u t rd ∧ Advances s t) ∧
  ∀ (r : Reg) (c : Csr) (hi : Trits 14) (s : State), CanName s c → csrPlain c = true → r ≠ 0 →
    ∃ t, exec (.csrx r r c hi) s = .next t ∧ t.reg r = (s.csrRead c).1 ∧ (t.csrRead c).1 = s.reg r

/-- A user-mode access to a kernel-only CSR (R29, R451, R420), and a bad value for MPU_SELECT or MPU_CFG (R37, R39, R129),
take EXC_ILLEGAL with the raw instruction word. That ESAVE and ETVAL are kernel-only is decision D8 of the spec (log
entry 22), and that CSRX is bound by the rule as CSRR and CSRW are is its decision D33 (log entry 23). -/
def Obligations.IllegalCsrAccessTraps : Prop :=
  (∀ (rd rs1 : Reg) (c : Csr) (lo : Trits 3) (hi : Trits 14) (s : State), s.mode = .P → kernelOnly c = true →
    exec (.csrr rd c lo hi) s = .next (s.trap (-10) (encode (.csrr rd c lo hi)) s.pc) ∧
    exec (.csrw c rs1 lo hi) s = .next (s.trap (-10) (encode (.csrw c rs1 lo hi)) s.pc) ∧
    exec (.csrx rd rs1 c hi) s = .next (s.trap (-10) (encode (.csrx rd rs1 c hi)) s.pc)) ∧
  ∀ (rd rs1 : Reg) (lo : Trits 3) (hi : Trits 14) (s : State), s.mode ≠ .P →
    (((s.reg rs1).val < 0 ∨ 8 < (s.reg rs1).val) →
      exec (.csrw .mpuSelect rs1 lo hi) s = .next (s.trap (-10) (encode (.csrw .mpuSelect rs1 lo hi)) s.pc) ∧
      exec (.csrx rd rs1 .mpuSelect hi) s = .next (s.trap (-10) (encode (.csrx rd rs1 .mpuSelect hi)) s.pc)) ∧
    (((∃ i, 8 ≤ i ∧ i < 27 ∧ (s.reg rs1).get i ≠ .Z) ∨ (s.reg rs1).field 3 4 < 0 ∨ 26 < (s.reg rs1).field 3 4) →
      exec (.csrw .mpuCfg rs1 lo hi) s = .next (s.trap (-10) (encode (.csrw .mpuCfg rs1 lo hi)) s.pc) ∧
      exec (.csrx rd rs1 .mpuCfg hi) s = .next (s.trap (-10) (encode (.csrx rd rs1 .mpuCfg hi)) s.pc))

/-- The CSR writes to which the spec gives no effect are refused by name (R30 with log entry 9, R36 with log entry 8). -/
def Obligations.CsrWriteRefusals : Prop :=
  ∀ (rd rs1 : Reg) (lo : Trits 3) (hi : Trits 14) (s : State),
    exec (.csrw .pc rs1 lo hi) s = .refused .csrPcWrite ∧
    exec (.csrx rd rs1 .pc hi) s = .refused .csrPcWrite ∧
    (s.mode ≠ .P → (s.reg rs1).get 0 = .Z →
      exec (.csrw .status rs1 lo hi) s = .refused .reservedMode ∧
      exec (.csrx rd rs1 .status hi) s = .refused .reservedMode) ∧
    (s.mode ≠ .P → (s.reg rs1).get 0 ≠ .Z → (∃ i, 4 ≤ i ∧ i < 27 ∧ (s.reg rs1).get i ≠ .Z) →
      exec (.csrw .status rs1 lo hi) s = .refused .reservedStatus ∧
      exec (.csrx rd rs1 .status hi) s = .refused .reservedStatus)

/-! ### Exceptions and system -/

/-- Case 1, outer entry (R431): what is saved where, STATUS after, the pc at EVEC, and nothing else changes. -/
def Obligations.OuterEntry : Prop :=
  ∀ (s : State) (code : Int) (tval epc : Word), s.status.get 3 = .Z →
    ∃ t, s.trap code tval epc = t ∧
      t = { s with esave := s.status, epc := epc, ecause := enc code 27, etval := tval, status := t.status, pc := s.evec } ∧
      t.status.get 0 = .N ∧ t.status.get 1 = .N ∧ t.status.get 3 = .P ∧
      ∀ i, i ≠ 0 → i ≠ 1 → i ≠ 3 → t.status.get i = s.status.get i

/-- Case 2, nested entry (R432), the frame-2 bank; mode and ie become N here too, as the rule fixes. -/
def Obligations.NestedEntry : Prop :=
  ∀ (s : State) (code : Int) (tval epc : Word), s.status.get 3 = .P →
    ∃ t, s.trap code tval epc = t ∧
      t = { s with esave2 := s.status, epc2 := epc, ecause2 := enc code 27, etval2 := tval, status := t.status, pc := s.evec } ∧
      t.status.get 0 = .N ∧ t.status.get 1 = .N ∧ t.status.get 3 = .N ∧
      ∀ i, i ≠ 0 → i ≠ 1 → i ≠ 3 → t.status.get i = s.status.get i

/-- Case 3 (R436): at depth N every CSR, every field of every MPU descriptor, the latches and the halted flag are at
their reset values (R47) and pc is 0, as the state holds them and as a CSR read returns them; the general registers,
the vector registers and memory keep their values. STATUS −1 and the inactive regions (D2, D29) and that registers and
memory are kept (D19) are decisions of the spec (log entry 17); the platform's memory map, the feed of line samples and
the count of open values, which are the model's, are kept too (log entries 3, 4, 5). -/
def Obligations.MachineCheckReset : Prop :=
  ∀ (s : State) (code : Int) (tval epc : Word), s.status.get 3 = .N →
    ∃ t, s.trap code tval epc = t ∧ t.AtResetValues ∧ t.mpu = State.reset.mpu ∧
      t = { State.reset with
        regs := s.regs, vregs := s.vregs, mem := s.mem, memMap := s.memMap, irqFeed := s.irqFeed
        freeCount := s.freeCount } ∧
      (∀ c, c ≠ .status → c ≠ .ipending → c ≠ .mpuCfg → (t.csrRead c).1.val = 0) ∧
      (t.csrRead .status).1.val = -1 ∧
      ∀ i : Fin 9, ({ t with mpuSelect := i }.csrRead .mpuCfg).1.val = -2187 ∧
        ({ t with mpuSelect := i }.csrRead .mpuBase).1.val = 0

/-- ECALL, HCALL, DBGBRK (R263, R420): the cause of the flavor, trap value 0, EPC the address of the instruction, in
every mode and at every depth. NOP (R265) moves on and changes nothing; HALT (R266) sets the halted flag and changes
nothing, pc included; a halted processor steps to itself. -/
def Obligations.EnvironmentCallsNopHalt : Prop :=
  (∀ s : State,
    exec .ecall s = .next (s.trap 0 zeroWord s.pc) ∧
    exec .hcall s = .next (s.trap 1 zeroWord s.pc) ∧
    exec .dbgbrk s = .next (s.trap 2 zeroWord s.pc)) ∧
  (∀ s : State, ∃ t, exec .nop s = .next t ∧ FramePc s t ∧ Advances s t) ∧
  (∀ s : State, exec .halt s = .next { s with halted := true }) ∧
  (∀ s : State, s.halted = true → step s = .next s)

/-- IRET (R264, R443): the main bank at depth P, the frame-2 bank at depth N, where the saved STATUS is one the spec
gives a behaviour (R36); undefined at depth Z, where the model stops (log entries 8 and 10). -/
def Obligations.ReturnFromException : Prop :=
  ∀ s : State,
    (s.status.get 3 = .P → statusLegal s.esave = true →
      exec .iret s = .next { s with pc := s.epc, status := s.esave }) ∧
    (s.status.get 3 = .N → statusLegal s.esave2 = true →
      exec .iret s = .next { s with pc := s.epc2, status := s.esave2 }) ∧
    (s.status.get 3 = .Z → exec .iret s = .fault .iretAtDepthZ)

/-- An exception entry followed by IRET is back at the saved pc with the STATUS there was (R443, R431, R432). -/
def Obligations.EntryThenReturn : Prop :=
  ∀ (s : State) (code : Int) (tval epc : Word), s.status.get 3 ≠ .N → statusLegal s.status = true →
    ∃ t, exec .iret (s.trap code tval epc) = .next t ∧ t.pc = epc ∧ t.status = s.status ∧
      t.regs = s.regs ∧ t.vregs = s.vregs ∧ t.mem = s.mem ∧ t.flagSign = s.flagSign ∧ t.flagCarry = s.flagCarry

/-- Reserved and custom opcodes (R125, R126) and unassigned selector values (R124, R121): every such word takes EXC_ILLEGAL
with the word itself as trap value, whatever its other trits hold. The eight terms of the ILLEGAL and RESERVED rows do
so as instructions; that entry is their whole effect (R129). So do VINS and VEXT with a negative lane index (R407).
Decisions of the spec that this rests on: an unassigned selector is illegal (D4, log entry 19); no custom opcode is
implemented (D5, log entry 19); a negative lane is illegal (D28, conflict C5, log entry 35). -/
def Obligations.IllegalWordsTrap : Prop :=
  (∀ (w : Word) (s : State),
    (opcodeOf w = -20 ∨ opcodeOf w = -19 ∨ opcodeOf w = 14 ∨ opcodeOf w = 23 ∨ opcodeOf w = 24 ∨
      (25 ≤ opcodeOf w ∧ opcodeOf w ≤ 40)) →
    exec (decode w) s = .next (s.trap (-10) w s.pc)) ∧
  (∀ (w : Word) (s : State),
    ((opcodeOf w = -38 ∧ w.get 13 = .N) ∨ (opcodeOf w = 15 ∧ w.get 13 = .P) ∨
      ((opcodeOf w = 17 ∨ opcodeOf w = 21 ∨ opcodeOf w = 22) ∧
        ¬ (w.field 13 3 = 0 ∨ w.field 13 3 = 1 ∨ w.field 13 3 = 3 ∨ w.field 13 3 = 4 ∨ w.field 13 3 = 9 ∨
          w.field 13 3 = 10)) ∨
      (opcodeOf w = 20 ∧
        ¬ (w.field 13 3 = 0 ∨ w.field 13 3 = 1 ∨ w.field 13 3 = 3 ∨ w.field 13 3 = 4 ∨ w.field 13 3 = 9 ∨
          w.field 13 3 = 10 ∨ w.field 13 3 = 12))) →
    exec (decode w) s = .next (s.trap (-10) w s.pc)) ∧
  (∀ (w : Word) (s : State),
    exec (.illegalMul w) s = .next (s.trap (-10) w s.pc) ∧ exec (.illegalVadd w) s = .next (s.trap (-10) w s.pc) ∧
    exec (.illegalVlog w) s = .next (s.trap (-10) w s.pc) ∧ exec (.illegalVred w) s = .next (s.trap (-10) w s.pc) ∧
    exec (.illegalVperm w) s = .next (s.trap (-10) w s.pc) ∧ exec (.illegalVmove w) s = .next (s.trap (-10) w s.pc) ∧
    exec (.reservedOpcode w) s = .next (s.trap (-10) w s.pc) ∧ exec (.customOpcode w) s = .next (s.trap (-10) w s.pc)) ∧
  ∀ (rd rs1 : Reg) (vd vs1 : VReg) (lane : Int) (lo : Trits 3) (hi : Trits 8) (s : State), lane < 0 →
    exec (.vins vd rs1 lane lo hi) s = .next (s.trap (-10) (encode (.vins vd rs1 lane lo hi)) s.pc) ∧
    exec (.vext rd vs1 lane lo hi) s = .next (s.trap (-10) (encode (.vext rd vs1 lane lo hi)) s.pc)

/-! ### The special group -/

/-- TSEL (R290): the register that FLAGS.sign names. TSIGN, TABS (R293, R295): the sign, the absolute value. TMIN, TMAX
(R296, R297): the least and the greatest of the 27 trits, each attained. FLAGS untouched by all. -/
def Obligations.SpecialGroupResult : Prop :=
  (∀ (rd rn rz rp : Reg) (s : State),
    ∃ t, exec (.tsel rd rn rz rp) s = .next t ∧
      WroteReg s t rd (match s.flagSign with
        | .N => (s.reg rn).val
        | .Z => (s.reg rz).val
        | .P => (s.reg rp).val)) ∧
  (∀ (rd rs1 : Reg) (s : State),
    (∃ t, exec (.tsign rd rs1) s = .next t ∧ WroteReg s t rd (sign (s.reg rs1).val).val) ∧
    (∃ t, exec (.tabs rd rs1) s = .next t ∧ WroteReg s t rd |(s.reg rs1).val|)) ∧
  ∀ (rd rs1 : Reg) (s : State),
    ∃ lo hi : Trit,
      (∀ i, i < 27 → lo.val ≤ ((s.reg rs1).get i).val ∧ ((s.reg rs1).get i).val ≤ hi.val) ∧
      (∃ i, i < 27 ∧ (s.reg rs1).get i = lo) ∧ (∃ i, i < 27 ∧ (s.reg rs1).get i = hi) ∧
      (∃ t, exec (.tmin rd rs1) s = .next t ∧ WroteReg s t rd lo.val) ∧
      (∃ t, exec (.tmax rd rs1) s = .next t ∧ WroteReg s t rd hi.val)

/-- TGET, TSETN, TSETZ, TSETP with an index of 0..26 (R291, R292): the trit read, or the word with that one trit
replaced; FLAGS untouched. -/
def Obligations.TritGetSet : Prop :=
  ∀ (rd rs1 rs2 : Reg) (s : State) (k : Nat), k ≤ 26 → (s.reg rs2).val = k →
    (∃ t, exec (.tget rd rs1 rs2) s = .next t ∧ WroteReg s t rd ((s.reg rs1).get k).val) ∧
    (∃ t, exec (.tsetn rd rs1 rs2) s = .next t ∧
      WroteReg s t rd ((s.reg rs1).val + (-1 - ((s.reg rs1).get k).val) * pow3 k)) ∧
    (∃ t, exec (.tsetz rd rs1 rs2) s = .next t ∧
      WroteReg s t rd ((s.reg rs1).val - ((s.reg rs1).get k).val * pow3 k)) ∧
    (∃ t, exec (.tsetp rd rs1 rs2) s = .next t ∧
      WroteReg s t rd ((s.reg rs1).val + (1 - ((s.reg rs1).get k).val) * pow3 k))

/-! ### Floating point -/

/-- The specials are exactly the three patterns of R311, and no reserved regime occurs (R317): every other T26F word
is normal, of the sign of its value (R312). -/
def Obligations.TfpClasses : Prop :=
  ∀ w : Word, isT26f w = true →
    (decodeT26f w = .zero ↔ w.val = 0) ∧ (decodeT26f w = .inf ↔ w.val = 1270932914164) ∧
    (decodeT26f w = .nar ↔ w.val = -1270932914164) ∧
    ∀ q, decodeT26f w = .normal q → (0 < q ↔ 0 < w.val) ∧ q ≠ 0

/-- Monotone and symmetric (R319): on normal values the integer order is the order of the decoded values, and
inverting the trits negates the value. -/
def Obligations.TfpMonotone : Prop :=
  (∀ (a b : Word) (x y : Rat), isT26f a = true → isT26f b = true → decodeT26f a = .normal x →
    decodeT26f b = .normal y → (a.val < b.val ↔ x < y)) ∧
  ∀ (a : Word) (x : Rat), isT26f a = true → decodeT26f a = .normal x →
    decodeT26f (mapTrits tritNeg a) = .normal (-x)

/-- `T26F_round` (R321): zero to the Zero pattern, a representable rational to its pattern, anything else to a T26F
word that is not NaR. -/
def Obligations.TfpRounding : Prop :=
  t26fRound 0 = zeroWord ∧
  (∀ (w : Word) (q : Rat), isT26f w = true → decodeT26f w = .normal q → t26fRound q = w) ∧
  ∀ q : Rat, isT26f (t26fRound q) = true ∧ decodeT26f (t26fRound q) ≠ .nar

/-- FADD and FSUB of T26F operands (R330, R331, R323, R322), the specials and the finite case. -/
def Obligations.TfpAddSub : Prop :=
  ∀ (rd rs1 rs2 : Reg) (s : State), isT26f (s.reg rs1) = true → isT26f (s.reg rs2) = true →
    ∃ t u, exec (.fadd rd rs1 rs2) s = .next t ∧ exec (.fsub rd rs1 rs2) s = .next u ∧
      match decodeT26f (s.reg rs1), decodeT26f (s.reg rs2) with
      | .nar, _ => WroteTfp s t rd narWord ∧ WroteTfp s u rd narWord
      | _, .nar => WroteTfp s t rd narWord ∧ WroteTfp s u rd narWord
      | .inf, .inf => WroteTfp s t rd narWord ∧ WroteTfp s u rd narWord
      | .inf, _ => WroteTfp s t rd infWord ∧ WroteTfp s u rd infWord
      | _, .inf => WroteTfp s t rd infWord ∧ WroteTfp s u rd infWord
      | .zero, .zero => WroteTfp s t rd zeroWord ∧ WroteTfp s u rd zeroWord
      | .zero, .normal y => WroteTfp s t rd (s.reg rs2) ∧ WroteTfp s u rd (t26fRound (-y))
      | .normal _, .zero => WroteTfp s t rd (s.reg rs1) ∧ WroteTfp s u rd (s.reg rs1)
      | .normal x, .normal y => WroteTfp s t rd (t26fRound (x + y)) ∧ WroteTfp s u rd (t26fRound (x - y))

/-- FMUL and FDIV of T26F operands (R332, R333, R323, R322), the specials and the finite case; no trap. -/
def Obligations.TfpMulDiv : Prop :=
  ∀ (rd rs1 rs2 : Reg) (s : State), isT26f (s.reg rs1) = true → isT26f (s.reg rs2) = true →
    ∃ t u, exec (.fmul rd rs1 rs2) s = .next t ∧ exec (.fdiv rd rs1 rs2) s = .next u ∧
      match decodeT26f (s.reg rs1), decodeT26f (s.reg rs2) with
      | .nar, _ => WroteTfp s t rd narWord ∧ WroteTfp s u rd narWord
      | _, .nar => WroteTfp s t rd narWord ∧ WroteTfp s u rd narWord
      | .inf, .inf => WroteTfp s t rd infWord ∧ WroteTfp s u rd narWord
      | .inf, .zero => WroteTfp s t rd narWord ∧ WroteTfp s u rd infWord
      | .inf, .normal _ => WroteTfp s t rd infWord ∧ WroteTfp s u rd infWord
      | .zero, .inf => WroteTfp s t rd narWord ∧ WroteTfp s u rd zeroWord
      | .normal _, .inf => WroteTfp s t rd infWord ∧ WroteTfp s u rd zeroWord
      | .zero, .zero => WroteTfp s t rd zeroWord ∧ WroteTfp s u rd narWord
      | .normal _, .zero => WroteTfp s t rd zeroWord ∧ WroteTfp s u rd infWord
      | .zero, .normal _ => WroteTfp s t rd zeroWord ∧ WroteTfp s u rd zeroWord
      | .normal x, .normal y => WroteTfp s t rd (t26fRound (x * y)) ∧ WroteTfp s u rd (t26fRound (x / y))

/-- FCMP of T26F operands (R334): FLAGS of the exact difference by class; no register is written. The two cases with
one infinite operand follow the table of R323, which is decision D40 of the spec and marked PRESUMED in log entry 14. -/
def Obligations.TfpCompare : Prop :=
  ∀ (rs1 rs2 : Reg) (s : State), isT26f (s.reg rs1) = true → isT26f (s.reg rs2) = true →
    ∃ t, exec (.fcmp rs1 rs2) s = .next t ∧
      match decodeT26f (s.reg rs1), decodeT26f (s.reg rs2) with
      | .nar, _ => WroteFlags s t .Z (-1)
      | _, .nar => WroteFlags s t .Z (-1)
      | .inf, .inf => WroteFlags s t .Z (-1)
      | .inf, _ => WroteFlags s t .P 1
      | _, .inf => WroteFlags s t .P 1
      | _, _ => WroteFlags s t (sign ((s.reg rs1).val - (s.reg rs2).val)) 0

/-- FICVT, FCVTI, FCVTIZ (R335, R336, R337): the integer to the pattern of that integer, a T26F value to the nearest
integer, which is never a tie, and to the integer toward zero; FLAGS untouched. That the conversions leave FLAGS alone
(R322) is decision D24 of the spec (log entry 15); the pattern of an integer that has none is the open value of D25
(log entry 11). -/
def Obligations.TfpConversions : Prop :=
  ∀ (rd rs1 : Reg) (s : State),
    (∃ t, exec (.ficvt rd rs1) s = .next t ∧ WroteReg s t rd (t26fRound ((s.reg rs1).val : Rat)).val) ∧
    (isT26f (s.reg rs1) = true → decodeT26f (s.reg rs1) = .zero →
      (∃ t, exec (.fcvti rd rs1) s = .next t ∧ WroteReg s t rd 0) ∧
      (∃ t, exec (.fcvtiz rd rs1) s = .next t ∧ WroteReg s t rd 0)) ∧
    (∀ q : Rat, isT26f (s.reg rs1) = true → decodeT26f (s.reg rs1) = .normal q →
      ∃ n : Int, 2 * |q - n| < 1 ∧ (|n| ≤ H → ∃ t, exec (.fcvti rd rs1) s = .next t ∧ WroteReg s t rd n)) ∧
    ∀ q : Rat, isT26f (s.reg rs1) = true → decodeT26f (s.reg rs1) = .normal q →
      ∃ n : Int, |(n : Rat)| ≤ |q| ∧ |q| < |(n : Rat)| + 1 ∧ 0 ≤ q * n ∧
        (|n| ≤ H → ∃ t, exec (.fcvtiz rd rs1) s = .next t ∧ WroteReg s t rd n)

/-- Where a result is open the instruction runs, raises nothing, and changes nothing but the open value and the model's own
counter (log entries 5, 11, 12): TGET and TSET with an index outside 0..26 (R291, R292), TFP operations on words that
are not T26F values (R320), FCVTI and FCVTIZ of ∞, NaR or a value beyond ±H (R336, R337). -/
def Obligations.OpenValuesStillRun : Prop :=
  (∀ (rd rs1 rs2 : Reg) (s : State), ((s.reg rs2).val < 0 ∨ 26 < (s.reg rs2).val) →
    (∃ t, exec (.tget rd rs1 rs2) s = .next t ∧ FrameReg { s with freeCount := s.freeCount + 1 } t rd ∧ Advances s t) ∧
    (∃ t, exec (.tsetn rd rs1 rs2) s = .next t ∧ FrameReg { s with freeCount := s.freeCount + 1 } t rd ∧ Advances s t) ∧
    (∃ t, exec (.tsetz rd rs1 rs2) s = .next t ∧ FrameReg { s with freeCount := s.freeCount + 1 } t rd ∧ Advances s t) ∧
    (∃ t, exec (.tsetp rd rs1 rs2) s = .next t ∧ FrameReg { s with freeCount := s.freeCount + 1 } t rd ∧ Advances s t)) ∧
  (∀ (rd rs1 : Reg) (s : State), isT26f (s.reg rs1) = true →
    (decodeT26f (s.reg rs1) = .inf ∨ decodeT26f (s.reg rs1) = .nar ∨
      ∃ q, decodeT26f (s.reg rs1) = .normal q ∧ (H : Rat) + 1 ≤ |q|) →
    (∃ t, exec (.fcvti rd rs1) s = .next t ∧ FrameReg { s with freeCount := s.freeCount + 1 } t rd ∧ Advances s t) ∧
    (∃ t, exec (.fcvtiz rd rs1) s = .next t ∧ FrameReg { s with freeCount := s.freeCount + 1 } t rd ∧ Advances s t)) ∧
  ∀ (rd rs1 rs2 : Reg) (s : State),
    ((isT26f (s.reg rs1) = false ∨ isT26f (s.reg rs2) = false) →
      (∃ t, exec (.fadd rd rs1 rs2) s = .next t ∧
        FrameRegFlags { s with freeCount := s.freeCount + 1 } t rd ∧ Advances s t) ∧
      (∃ t, exec (.fsub rd rs1 rs2) s = .next t ∧
        FrameRegFlags { s with freeCount := s.freeCount + 1 } t rd ∧ Advances s t) ∧
      (∃ t, exec (.fmul rd rs1 rs2) s = .next t ∧
        FrameRegFlags { s with freeCount := s.freeCount + 1 } t rd ∧ Advances s t) ∧
      (∃ t, exec (.fdiv rd rs1 rs2) s = .next t ∧
        FrameRegFlags { s with freeCount := s.freeCount + 1 } t rd ∧ Advances s t) ∧
      (∃ t, exec (.fcmp rs1 rs2) s = .next t ∧
        FrameFlags { s with freeCount := s.freeCount + 1 } t ∧ Advances s t)) ∧
    (isT26f (s.reg rs1) = false →
      (∃ t, exec (.fcvti rd rs1) s = .next t ∧ FrameReg { s with freeCount := s.freeCount + 1 } t rd ∧ Advances s t) ∧
      (∃ t, exec (.fcvtiz rd rs1) s = .next t ∧ FrameReg { s with freeCount := s.freeCount + 1 } t rd ∧ Advances s t))

/-! ### The vector extension -/

/-- VADD, VSUB, VMUL, VCMP (R353, R360, R361, R362, R370): lane by lane, saturated. VSEL (R369): each lane from vs1, zero
or vs2 by the mask lane. FLAGS untouched. The VSEL clause follows R369 against a row of 95_test_vectors.md that has the
opposite choice (log entry 41, DEDUCED). -/
def Obligations.LaneArithmetic : Prop :=
  (∀ (vd vs1 vs2 : VReg) (s : State),
    ∃ fa fs fm fc : Nat → Trit,
      (∀ i, (fa i).val = max (-1) (min 1 (((s.vreg vs1).get i).val + ((s.vreg vs2).get i).val))) ∧
      (∀ i, (fs i).val = max (-1) (min 1 (((s.vreg vs1).get i).val - ((s.vreg vs2).get i).val))) ∧
      (∀ i, (fm i).val = ((s.vreg vs1).get i).val * ((s.vreg vs2).get i).val) ∧
      (∀ i, fc i = sign (((s.vreg vs1).get i).val - ((s.vreg vs2).get i).val)) ∧
      (∃ t, exec (.vadd vd vs1 vs2) s = .next t ∧ WroteLanes s t vd fa) ∧
      (∃ t, exec (.vsub vd vs1 vs2) s = .next t ∧ WroteLanes s t vd fs) ∧
      (∃ t, exec (.vmul vd vs1 vs2) s = .next t ∧ WroteLanes s t vd fm) ∧
      (∃ t, exec (.vcmp vd vs1 vs2) s = .next t ∧ WroteLanes s t vd fc)) ∧
  ∀ (vd vs1 vs2 vm : VReg) (s : State),
    ∃ t, exec (.vsel vd vs1 vs2 vm) s = .next t ∧
      WroteLanes s t vd (fun i => match (s.vreg vm).get i with
        | .N => (s.vreg vs1).get i
        | .Z => .Z
        | .P => (s.vreg vs2).get i)

/-- VAND, VOR, VIMPL, VNOT follow the logic in force, VCONS and VACONS none (R363–R368); FLAGS untouched. -/
def Obligations.LaneLogic : Prop :=
  ∀ (vd vs1 vs2 : VReg) (s : State),
    (∃ t, exec (.vand vd vs1 vs2) s = .next t ∧
      WroteLanes s t vd (fun i => tand s.logicMode ((s.vreg vs1).get i) ((s.vreg vs2).get i))) ∧
    (∃ t, exec (.vor vd vs1 vs2) s = .next t ∧
      WroteLanes s t vd (fun i => tor s.logicMode ((s.vreg vs1).get i) ((s.vreg vs2).get i))) ∧
    (∃ t, exec (.vimpl vd vs1 vs2) s = .next t ∧
      WroteLanes s t vd (fun i => timpl s.logicMode ((s.vreg vs1).get i) ((s.vreg vs2).get i))) ∧
    (∃ t, exec (.vnot vd vs1) s = .next t ∧
      WroteLanes s t vd (fun i => tnot s.logicMode ((s.vreg vs1).get i))) ∧
    (∃ t, exec (.vcons vd vs1 vs2) s = .next t ∧
      WroteLanes s t vd (fun i => tcons ((s.vreg vs1).get i) ((s.vreg vs2).get i))) ∧
    (∃ t, exec (.vacons vd vs1 vs2) s = .next t ∧
      WroteLanes s t vd (fun i => tacons ((s.vreg vs1).get i) ((s.vreg vs2).get i)))

/-- The seven reductions (R371–R377) write a general register: the lane sum and its sign, the consensus with Z
abstaining, the least and the greatest lane, and the folds of AND and OR in the logic in force. -/
def Obligations.LaneReductions : Prop :=
  ∀ (rd : Reg) (vs1 : VReg) (s : State),
    (∃ t, exec (.vredSum rd vs1) s = .next t ∧
      WroteReg s t rd ((List.range 27).map fun i => ((s.vreg vs1).get i).val).sum) ∧
    (∃ t, exec (.vredSign rd vs1) s = .next t ∧
      WroteReg s t rd (sign ((List.range 27).map fun i => ((s.vreg vs1).get i).val).sum).val) ∧
    (∃ n : Int,
      ((∃ i, i < 27 ∧ (s.vreg vs1).get i = .P) → (∀ i, i < 27 → (s.vreg vs1).get i ≠ .N) → n = 1) ∧
      ((∃ i, i < 27 ∧ (s.vreg vs1).get i = .N) → (∀ i, i < 27 → (s.vreg vs1).get i ≠ .P) → n = -1) ∧
      (((∃ i, i < 27 ∧ (s.vreg vs1).get i = .P) ↔ (∃ i, i < 27 ∧ (s.vreg vs1).get i = .N)) → n = 0) ∧
      ∃ t, exec (.vredCons rd vs1) s = .next t ∧ WroteReg s t rd n) ∧
    ∃ lo hi : Trit,
      (∀ i, i < 27 → lo.val ≤ ((s.vreg vs1).get i).val ∧ ((s.vreg vs1).get i).val ≤ hi.val) ∧
      (∃ i, i < 27 ∧ (s.vreg vs1).get i = lo) ∧ (∃ i, i < 27 ∧ (s.vreg vs1).get i = hi) ∧
      (∃ t, exec (.vredLst rd vs1) s = .next t ∧ WroteReg s t rd lo.val) ∧
      (∃ t, exec (.vredMst rd vs1) s = .next t ∧ WroteReg s t rd hi.val) ∧
      ∃ va vo : Int,
        (s.logicMode = .b3 → (∃ i, i < 27 ∧ (s.vreg vs1).get i = .Z) → va = 0 ∧ vo = 0) ∧
        (s.logicMode ≠ .b3 ∨ (∀ i, i < 27 → (s.vreg vs1).get i ≠ .Z) → va = lo.val ∧ vo = hi.val) ∧
        (∃ t, exec (.vredAnd rd vs1) s = .next t ∧ WroteReg s t rd va) ∧
        (∃ t, exec (.vredOr rd vs1) s = .next t ∧ WroteReg s t rd vo)

/-- VROTL, VROTR, VSHL, VSHR, VREV (R380–R384, R386): where each lane goes, the amount read from lanes 0..4 of vs2. VSHUF
(R385): lanes 0..8 come from the lanes that the nine 3-trit groups of vs2 name, modulo 27; lanes 9..26 of vd are open
(log entry 13). FLAGS untouched; VSHUF also advances the model's own counter (log entry 5). That left is toward higher
lanes, that a negative amount reverses the direction and that the amount is the value of lanes 0..4 are decision D27 of
the spec (R386, log entry 34). -/
def Obligations.LanePermutations : Prop :=
  (∀ (vd vs1 vs2 : VReg) (s : State),
    ∃ fl fr gl gr : Nat → Trit,
      (∀ i : Nat, i < 27 →
        fl (((i : Int) + (s.vreg vs2).field 0 5) % 27).toNat = (s.vreg vs1).get i ∧
        fr (((i : Int) - (s.vreg vs2).field 0 5) % 27).toNat = (s.vreg vs1).get i) ∧
      (∀ i j : Nat, i < 27 → j < 27 →
        ((j : Int) = i + (s.vreg vs2).field 0 5 → gl j = (s.vreg vs1).get i) ∧
        ((j : Int) = i - (s.vreg vs2).field 0 5 → gr j = (s.vreg vs1).get i)) ∧
      (∀ j : Nat, j < 27 →
        ((∀ i : Nat, i < 27 → (j : Int) ≠ i + (s.vreg vs2).field 0 5) → gl j = .Z) ∧
        ((∀ i : Nat, i < 27 → (j : Int) ≠ i - (s.vreg vs2).field 0 5) → gr j = .Z)) ∧
      (∃ t, exec (.vrotl vd vs1 vs2) s = .next t ∧ WroteLanes s t vd fl) ∧
      (∃ t, exec (.vrotr vd vs1 vs2) s = .next t ∧ WroteLanes s t vd fr) ∧
      (∃ t, exec (.vshl vd vs1 vs2) s = .next t ∧ WroteLanes s t vd gl) ∧
      (∃ t, exec (.vshr vd vs1 vs2) s = .next t ∧ WroteLanes s t vd gr) ∧
      (∃ t, exec (.vrev vd vs1) s = .next t ∧ WroteLanes s t vd (fun i => (s.vreg vs1).get (26 - i)))) ∧
  ∀ (vd vs1 vs2 : VReg) (s : State),
    ∃ t, exec (.vshuf vd vs1 vs2) s = .next t ∧ FrameVreg { s with freeCount := s.freeCount + 1 } t vd ∧
      Advances s t ∧
      ∀ i, i < 9 → (t.vreg vd).get i = (s.vreg vs1).get (((s.vreg vs2).field (3 * i) 3) % 27).toNat

/-- VMOV.GV, VMOV.VG, VMOV.VV, VBCAST (R401–R404), and VINS and VEXT with a lane index of 0..13 (R405, R406, R407). -/
def Obligations.BankMoves : Prop :=
  ∀ (rd rs1 : Reg) (vd vs1 : VReg) (lane : Nat) (lo : Trits 3) (hi : Trits 8) (s : State), lane ≤ 13 →
    (∃ t, exec (.vmovGv vd rs1) s = .next t ∧ WroteLanes s t vd (s.reg rs1).get) ∧
    (∃ t, exec (.vmovVg rd vs1) s = .next t ∧ WroteReg s t rd (s.vreg vs1).val) ∧
    (∃ t, exec (.vmovVv vd vs1) s = .next t ∧ WroteLanes s t vd (s.vreg vs1).get) ∧
    (∃ t, exec (.vbcast vd rs1) s = .next t ∧ WroteLanes s t vd (fun _ => (s.reg rs1).get 0)) ∧
    (∃ t, exec (.vins vd rs1 lane lo hi) s = .next t ∧
      WroteLanes s t vd (fun i => if i = lane then (s.reg rs1).get 0 else (s.vreg vd).get i)) ∧
    (∃ t, exec (.vext rd vs1 lane lo hi) s = .next t ∧ WroteReg s t rd ((s.vreg vs1).get lane).val)

/-! ### Encoding -/

/-- Every well-formed instruction decodes from its own word, every operand at every value its field admits. -/
def Obligations.DecodeEncode : Prop := ∀ i : Instr, i.wf = true → decode (encode i) = i

/-- Every word decodes to a well-formed instruction (R130), and where the raw word can reach ETVAL (R129) the decoded
instruction carries all of it: its encoding is the word. -/
def Obligations.RawWordsSurviveDecoding : Prop :=
  ∀ w : Word, (decode w).wf = true ∧
    ((opcodeOf w = -7 ∨ opcodeOf w = -6 ∨ opcodeOf w = -5 ∨
      (opcodeOf w = 22 ∧ (w.field 13 3 = 9 ∨ w.field 13 3 = 10))) → encode (decode w) = w)

/-- Worked encodings of the spec (R133, R210, R231, R242, R241, R266), one word of each format, and the two words of the
vector kernel of R409, written trit by trit, LST first. -/
def Obligations.WorkedEncodings : Prop :=
  decode (assemble [[.N, .N, .N, .N], [.Z, .P, .Z], [.P, .Z, .Z], [.N, .P, .Z]]) = .add 3 1 2 ∧
  decode (assemble [[.P, .Z, .Z, .N], [.P, .Z, .P], [.N, .P, .Z], [.N, .N, .P]]) = .load 10 2 5 ∧
  decode (assemble [[.P, .Z, .P, .N], [.P, .Z, .P], [.P, .P]]) = .beq 10 4 ∧
  decode (assemble [[.Z, .Z, .N, .Z], [.P, .P, .N]]) = .jmp (-5) ∧
  decode (assemble [[.Z, .N, .P, .N], [.N, .N, .P], [.P, .N], [.Z, .Z, .Z, .Z, .Z, .Z, .Z, .Z], [.Z, .P]]) = .brt3 5 (-2) 3 ∧
  decode (assemble [[.P, .N, .N, .P], [.Z, .P, .Z], [.P, .Z, .Z], [.N, .P]]) = .vmul 3 1 2 ∧
  decode (assemble [[.N, .P, .N, .P], [.P, .Z, .P], [.Z, .P, .Z], [.Z, .Z, .Z], [.P]]) = .vredSign 10 3 ∧
  decode zeroWord = .halt

/-! ### The machine -/

/-- A step runs the instruction the fetched word decodes to (R440), where the processor is not halted, its STATUS is one
the spec gives a behaviour, no interrupt is taken and the fetch goes through; the sample of the lines is all else. -/
def Obligations.StepRunsDecoded : Prop :=
  ∀ (s : State) (i : Instr), s.halted = false → statusLegal s.status = true →
    s.sampleLines.2.interruptLine s.sampleLines.1 = none → CanAccess s.sampleLines.2 s.pc.val .fetch →
    decode (s.mem.read s.pc.val) = i →
    step s = exec i { s with irqFeed := s.irqFeed.tail }

/-- A word placed where the fetch reads it is the first instruction run after reset (log entry 1). -/
def Obligations.PlacedWordRuns : Prop :=
  ∀ nbits w : Nat, step (State.reset.withFetchWord nbits w) =
    exec (decode (wordOfNat w)) (State.reset.withFetchWord nbits w)

/-- Interrupt dispatch (R461, R464, R43): of the lines that are pending and enabled the one of greatest priority, the
lowest on ties, enters with cause 20 + k, trap value 0 and the pc as EPC; none is taken while ie is not P or at depth N.
The lines come from a feed that is the model's input (log entry 4, DESIGN CHOICE), sampled once a boundary (D38, log
entry 37); that a line is pending by its sample or by its software latch is decision D26 of the spec (log entry 33). -/
def Obligations.InterruptDispatch : Prop :=
  (∀ (s : State) (k : Fin 9), s.halted = false → statusLegal s.status = true → s.status.get 1 = .P →
    s.status.get 3 ≠ .N → (s.sampleLines.1[k] = true ∨ s.swpend[k] = true) → s.ienable[k] = true →
    (∀ j : Fin 9, (s.sampleLines.1[j] = true ∨ s.swpend[j] = true) → s.ienable[j] = true →
      s.ipriority.field (3 * j.val) 3 < s.ipriority.field (3 * k.val) 3 ∨
      (s.ipriority.field (3 * j.val) 3 = s.ipriority.field (3 * k.val) 3 ∧ k ≤ j)) →
    step s = .next (s.sampleLines.2.trap (20 + (k.val : Int)) zeroWord s.pc)) ∧
  ∀ (s : State) (lines : IrqLines), (s.status.get 1 ≠ .P ∨ s.status.get 3 = .N ∨
    ∀ k : Fin 9, ((lines[k] = false ∧ s.swpend[k] = false) ∨ s.ienable[k] = false)) → s.interruptLine lines = none

/-- The state after reset (R47, and R494 in its words): every row of R47 to which the spec gives a value, whatever the
lines are sampled at: kernel mode, interrupts masked, no line enabled, no frame active, Kleene, no active MPU region,
FLAGS clear, not halted, pc 0, STATUS −1, every other CSR, descriptor field and latch zero. Rows to which R47 gives no
value (r1..r26, the vector registers, memory) are the model's choices and are not stated (log entries 2 and 6). STATUS
−1 and the descriptors are decisions D2 and D29 of the spec (log entry 17), the latches behind IPENDING its D26 (log
entry 33); the feed of samples is the model's (log entry 4). -/
def Obligations.ResetState : Prop :=
  (∀ feed : List IrqLines, State.AtResetValues { State.reset with irqFeed := feed }) ∧
  State.reset.mode = .N ∧ State.reset.ie ≠ .P ∧ (∀ k : Fin 9, State.reset.ienable[k] = false) ∧
  State.reset.depth = .Z ∧ State.reset.logicMode = .kleene ∧
  (∀ i : Fin 9, State.reset.mpu[i].valid = .N) ∧ State.reset.flagSign = .Z ∧ State.reset.flagCarry = .Z ∧
  State.reset.halted = false ∧ State.reset.pc.val = 0 ∧ State.reset.status.val = -1

/-- The invariant holds after reset. -/
def Obligations.InvariantAtReset : Prop := State.reset.Inv

/-- Every step keeps the invariant: the memory's canonical form, a legal STATUS (R36), the stored r0 (R21) and the MPU
sizes (R39). -/
def Obligations.InvariantKept : Prop := ∀ s t : State, s.Inv → step s = .next t → t.Inv

/-- Who writes FLAGS, memory and the vector bank (R32, R71, R352): below depth N, where no machine-check reset can
happen, an instruction changes each of them only if its opcode is one the rules name. -/
def Obligations.OnlyNamedWriters : Prop :=
  ∀ (w : Word) (s t : State), exec (decode w) s = .next t →
    (opcodeOf w ≠ -25 → SameMemory s t) ∧
    ((opcodeOf w < 15 ∨ 22 < opcodeOf w ∨ opcodeOf w = 20) → t.vregs = s.vregs) ∧
    (s.status.get 3 ≠ .N → ¬ (-40 ≤ opcodeOf w ∧ opcodeOf w ≤ -27) → opcodeOf w ≠ 4 → opcodeOf w ≠ -18 →
      ¬ (8 ≤ opcodeOf w ∧ opcodeOf w ≤ 12) →
      ¬ ((opcodeOf w = -6 ∨ opcodeOf w = -5) ∧ w.field 10 3 = 3) →
      t.flagSign = s.flagSign ∧ t.flagCarry = s.flagCarry)

/-- User code at every depth (R451, R452). A step in user mode does one of these and nothing else. It leaves every
kernel-only CSR, descriptor and latch as it was, and stays in user mode. It enters at EVEC in kernel mode with
interrupts masked: at depth Z it saves into the main bank (R431), at depth P into the frame-2 bank (R432), at depth N
it is the machine-check reset (R436). Or the fetched word is IRET, and pc and STATUS come from the bank of the depth,
which user code cannot write (R264). No entry, reset or IRET writes a general or vector register or a memory word.
Decisions of the spec that this rests on: ESAVE and ETVAL are kernel-only (D8, log entry 22); IRET is not refused in
user mode and stops at depth Z (D20, log entry 10); the nested entry forces mode and ie to N (D17, log entry 29); what
the machine-check reset leaves (D2, D19, log entry 17). That the lines are a feed is the model's (log entry 4). -/
def Obligations.UserModeConfined : Prop :=
  ∀ s t : State, s.status.get 0 = .P → step s = .next t →
    SameKernelState s t ∨
    (s.status.get 3 = .Z ∧
      t = { s with
        esave := s.status, epc := s.pc, ecause := t.ecause, etval := t.etval, status := t.status, pc := s.evec
        irqFeed := s.irqFeed.tail } ∧
      t.status.get 0 = .N ∧ t.status.get 1 = .N ∧ t.status.get 3 = .P) ∨
    (s.status.get 3 = .P ∧
      t = { s with
        esave2 := s.status, epc2 := s.pc, ecause2 := t.ecause2, etval2 := t.etval2, status := t.status, pc := s.evec
        irqFeed := s.irqFeed.tail } ∧
      t.status.get 0 = .N ∧ t.status.get 1 = .N ∧ t.status.get 3 = .N) ∨
    (s.status.get 3 = .N ∧ t.AtResetValues ∧ t.regs = s.regs ∧ t.vregs = s.vregs ∧ t.mem = s.mem) ∨
    (decode (s.mem.read s.pc.val) = .iret ∧
      ((s.status.get 3 = .P ∧ t = { s with pc := s.epc, status := s.esave, irqFeed := s.irqFeed.tail }) ∨
        (s.status.get 3 = .N ∧ t = { s with pc := s.epc2, status := s.esave2, irqFeed := s.irqFeed.tail })))
end

