-- ==== Sys2Proof/Laws/Word.lean ====
section
/-! SUPPORT. The laws of trits and words: reading a built word, the value of an encoded integer, a word from its value. -/

namespace Sys2Proof

@[simp] theorem Trit.val_N : Trit.N.val = -1 := rfl
@[simp] theorem Trit.val_Z : Trit.Z.val = 0 := rfl
@[simp] theorem Trit.val_P : Trit.P.val = 1 := rfl

theorem Trit.val_injective {a b : Trit} (h : a.val = b.val) : a = b := by
  cases a <;> cases b <;> simp_all

theorem Trit.val_bounds (t : Trit) : -1 ≤ t.val ∧ t.val ≤ 1 := by
  cases t <;> simp

theorem Trits.get_ofFn {w : Nat} (f : Nat → Trit) (i : Nat) :
    (Trits.ofFn f : Trits w).get i = if i < w then f i else .Z := by
  unfold Trits.get Trits.ofFn
  by_cases h : i < w <;> simp [h]

theorem Trits.get_ofFn_lt {w : Nat} (f : Nat → Trit) {i : Nat} (h : i < w) :
    (Trits.ofFn f : Trits w).get i = f i := by
  simp [Trits.get_ofFn, h]

theorem Trits.get_of_le {w : Nat} (x : Trits w) {i : Nat} (h : w ≤ i) : x.get i = .Z := by
  simp [Trits.get, Vector.getElem?_eq_none h]

theorem Trits.ext_get {w : Nat} {x y : Trits w} (h : ∀ i, i < w → x.get i = y.get i) : x = y := by
  ext i hi
  have := h i hi
  simpa [Trits.get, hi] using this

@[simp] theorem Trits.ofFn_get {w : Nat} (x : Trits w) : (Trits.ofFn x.get : Trits w) = x :=
  Trits.ext_get fun i hi => by simp [Trits.get_ofFn, hi]

/-! ### Powers of three -/

theorem pow3_pos (i : Nat) : 0 < pow3 i := by
  unfold pow3; positivity

@[simp] theorem pow3_zero : pow3 0 = 1 := rfl

theorem pow3_succ (i : Nat) : pow3 (i + 1) = 3 * pow3 i := by
  unfold pow3; push_cast; ring

theorem pow3_add (i j : Nat) : pow3 (i + j) = pow3 i * pow3 j := by
  unfold pow3; push_cast; ring

theorem two_mul_half3 (w : Nat) : 2 * half3 w = pow3 w - 1 := by
  have h : (3 ^ w - 1) % 2 = 0 := by
    have : Odd (3 ^ w) := Odd.pow (by decide)
    obtain ⟨k, hk⟩ := this
    omega
  have h1 : 1 ≤ 3 ^ w := Nat.one_le_pow _ _ (by decide)
  unfold half3 pow3
  omega

@[simp] theorem half3_zero : half3 0 = 0 := rfl

theorem half3_succ (w : Nat) : half3 (w + 1) = half3 w + pow3 w := by
  have h1 := two_mul_half3 w
  have h2 := two_mul_half3 (w + 1)
  rw [pow3_succ] at h2
  omega

theorem half3_nonneg (w : Nat) : 0 ≤ half3 w := by
  unfold half3; exact Int.natCast_nonneg _

@[simp] theorem half3_27 : half3 27 = H := by decide

/-! ### Digits, `wrap` and `carry` -/

theorem lst_spec (n : Int) : n = (lst n).val + 3 * ((n + 1) / 3) := by
  unfold lst
  split
  · simp; omega
  · split
    · simp; omega
    · simp; omega

@[simp] theorem quot3_zero (n : Int) : quot3 0 n = n := by simp [quot3]

theorem quot3_succ (i : Nat) (n : Int) : quot3 (i + 1) n = (quot3 i n + 1) / 3 := by
  have hp := pow3_pos i
  unfold quot3
  rw [half3_succ, pow3_succ, mul_comm, ← Int.ediv_ediv_of_nonneg hp.le]
  congr 1
  have : n + (half3 i + pow3 i) = (n + half3 i) + 1 * pow3 i := by ring
  rw [this, Int.add_mul_ediv_right _ _ hp.ne']

theorem sumTrits_digit (n : Int) (w : Nat) :
    sumTrits (fun i => digit i n) w + quot3 w n * pow3 w = n := by
  induction w with
  | zero => simp [sumTrits]
  | succ w ih =>
    have h := lst_spec (quot3 w n)
    rw [← quot3_succ] at h
    have hs : sumTrits (fun i => digit i n) (w + 1)
        = sumTrits (fun i => digit i n) w + (lst (quot3 w n)).val * pow3 w := rfl
    rw [hs, pow3_succ]
    linear_combination ih - pow3 w * h

theorem wrap_eq_sub (w : Nat) (n : Int) : wrap w n = n - quot3 w n * pow3 w := by
  unfold wrap quot3
  have := Int.emod_add_mul_ediv (n + half3 w) (pow3 w)
  linarith [mul_comm ((n + half3 w) / pow3 w) (pow3 w)]

theorem carry_eq_quot3 (w : Nat) (n : Int) : carry w n = quot3 w n := by
  unfold carry
  rw [wrap_eq_sub]
  have : n - (n - quot3 w n * pow3 w) = quot3 w n * pow3 w := by ring
  rw [this, Int.mul_ediv_cancel _ (pow3_pos w).ne']

theorem wrap_add_carry (w : Nat) (n : Int) : wrap w n + carry w n * pow3 w = n := by
  rw [carry_eq_quot3, wrap_eq_sub]; ring

theorem sumTrits_congr {f g : Nat → Trit} {w : Nat} (h : ∀ i, i < w → f i = g i) :
    sumTrits f w = sumTrits g w := by
  induction w with
  | zero => rfl
  | succ w ih =>
    simp only [sumTrits]
    rw [ih fun i hi => h i (Nat.lt_succ_of_lt hi), h w (Nat.lt_succ_self w)]

theorem val_ofFn {w : Nat} (f : Nat → Trit) : (Trits.ofFn f : Trits w).val = sumTrits f w :=
  sumTrits_congr fun _ hi => Trits.get_ofFn_lt f hi

/-- `val(enc(n, w)) = wrap_w(n)` (R13). -/
@[simp] theorem val_enc (n : Int) (w : Nat) : (enc n w).val = wrap w n := by
  have := sumTrits_digit n w
  rw [enc, val_ofFn, wrap_eq_sub]
  linarith

@[simp] theorem val_word (n : Int) : (word n).val = wrap 27 n := val_enc n 27

theorem wrap_bounds (w : Nat) (n : Int) : -half3 w ≤ wrap w n ∧ wrap w n ≤ half3 w := by
  have hp := pow3_pos w
  have h1 := Int.emod_nonneg (n + half3 w) hp.ne'
  have h2 := Int.emod_lt_of_pos (n + half3 w) hp
  have h3 := two_mul_half3 w
  unfold wrap
  omega

theorem wrap_of_bounds {w : Nat} {n : Int} (h1 : -half3 w ≤ n) (h2 : n ≤ half3 w) : wrap w n = n := by
  have h3 := two_mul_half3 w
  unfold wrap
  rw [Int.emod_eq_of_lt (by omega) (by omega)]
  omega

theorem sumTrits_bounds (f : Nat → Trit) (w : Nat) : -half3 w ≤ sumTrits f w ∧ sumTrits f w ≤ half3 w := by
  induction w with
  | zero => simp [sumTrits]
  | succ w ih =>
    have hp := pow3_pos w
    rw [half3_succ]
    simp only [sumTrits]
    cases f w <;> simp <;> omega

theorem val_bounds {w : Nat} (x : Trits w) : -half3 w ≤ x.val ∧ x.val ≤ half3 w :=
  sumTrits_bounds x.get w

theorem word_val_bounds (x : Word) : -H ≤ x.val ∧ x.val ≤ H := by
  have := val_bounds x
  rwa [half3_27] at this

theorem lst_add_three_mul (n k : Int) : lst (n + 3 * k) = lst n := by
  unfold lst
  rw [show (n + 3 * k) % 3 = n % 3 by omega]

theorem lst_val (t : Trit) : lst t.val = t := by
  cases t <;> decide

theorem sumTrits_succ_bottom (f : Nat → Trit) (w : Nat) :
    sumTrits f (w + 1) = (f 0).val + 3 * sumTrits (fun i => f (i + 1)) w := by
  induction w with
  | zero => simp [sumTrits]
  | succ w ih =>
    rw [sumTrits, ih, pow3_succ]
    simp only [sumTrits]
    ring

theorem quot3_succ_bottom (i : Nat) (t : Trit) (m : Int) : quot3 (i + 1) (t.val + 3 * m) = quot3 i m := by
  induction i with
  | zero =>
    rw [quot3_succ, quot3_zero, quot3_zero]
    cases t <;> simp <;> omega
  | succ i ih => rw [quot3_succ, ih, ← quot3_succ]

theorem digit_sumTrits (f : Nat → Trit) (w : Nat) {i : Nat} (h : i < w) : digit i (sumTrits f w) = f i := by
  induction w generalizing f i with
  | zero => omega
  | succ w ih =>
    rw [sumTrits_succ_bottom]
    cases i with
    | zero => simp [digit, lst_add_three_mul, lst_val]
    | succ i =>
      have := ih (fun j => f (j + 1)) (i := i) (by omega)
      unfold digit at this ⊢
      rw [quot3_succ_bottom, this]

/-- Every word is the encoding of its value (R9). -/
@[simp] theorem enc_val {w : Nat} (x : Trits w) : enc x.val w = x := by
  refine Trits.ext_get fun i hi => ?_
  rw [enc, Trits.get_ofFn_lt _ hi]
  exact digit_sumTrits x.get w hi

@[simp] theorem word_val (x : Word) : word x.val = x := enc_val x

theorem val_injective {w : Nat} {x y : Trits w} (h : x.val = y.val) : x = y := by
  rw [← enc_val x, ← enc_val y, h]

theorem get_enc {w : Nat} (n : Int) {i : Nat} (h : i < w) : (enc n w).get i = digit i n := by
  rw [enc, Trits.get_ofFn_lt _ h]

theorem val_word_of_bounds {n : Int} (h1 : -H ≤ n) (h2 : n ≤ H) : (word n).val = n := by
  rw [val_word, wrap_of_bounds] <;> rw [half3_27] <;> assumption

@[simp] theorem get_zeroWord (i : Nat) : zeroWord.get i = .Z := by
  by_cases h : i < 27 <;> simp [zeroWord, Trits.get, h]

theorem word_zero : word 0 = zeroWord := by decide

@[simp] theorem val_zeroWord : zeroWord.val = 0 := by decide

theorem sign_val (x : Word) : (sign x.val).val = Int.sign x.val := by
  unfold sign
  split
  · simp [Int.sign_eq_neg_one_of_neg, *]
  · split
    · simp [*]
    · simp [Int.sign_eq_one_of_pos (show 0 < x.val by omega)]

end Sys2Proof
end

