-- ==== Sys2Proof/Laws/Encoding.lean ====
section
/-! SUPPORT. The laws of the encoding: the trits of an assembled word, and each field back from its trits. -/

namespace Sys2Proof

/-- Trit `i` of an assembled word is trit `i` of its fields laid end to end. -/
theorem get_assemble (fields : List (List Trit)) {i : Nat} (h : i < 27) :
    (assemble fields).get i = fields.flatten.getD i .Z := by
  rw [assemble, Trits.get_ofFn_lt _ h]

theorem regOfField_fieldOfReg : ∀ r : Fin 27, regOfField (fieldOfReg r) = r := by decide

theorem fieldOfReg_regOfField {f : Int} (h1 : -13 ≤ f) (h2 : f ≤ 13) : fieldOfReg (regOfField f) = f := by
  unfold fieldOfReg regOfField
  simp only [Fin.val_ofNat]
  split <;> omega

theorem fieldOfReg_bounds (r : Fin 27) : -half3 3 ≤ fieldOfReg r ∧ fieldOfReg r ≤ half3 3 := by
  have := r.isLt
  have h : half3 3 = 13 := by decide
  rw [h]
  unfold fieldOfReg
  split <;> omega

theorem csrOfAddress_address : ∀ c : Csr, csrOfAddress c.address = c := by
  intro c
  cases c <;> try rfl
  rename_i k
  revert k
  decide

theorem address_csrOfAddress {a : Int} (h1 : -13 ≤ a) (h2 : a ≤ 13) : (csrOfAddress a).address = a := by
  interval_cases a <;> rfl

theorem address_bounds (c : Csr) : -half3 3 ≤ c.address ∧ c.address ≤ half3 3 := by
  have h : half3 3 = 13 := by decide
  rw [h]
  cases c <;> simp only [Csr.address] <;> try omega

/-- A field whose trits are those of an integer in range has that integer as its value. -/
theorem field_of_trits {w : Word} {lo len : Nat} {n : Int} (h : ∀ k, k < len → w.get (lo + k) = digit k n)
    (h1 : -half3 len ≤ n) (h2 : n ≤ half3 len) : w.field lo len = n := by
  unfold Trits.field
  rw [sumTrits_congr h]
  have := sumTrits_digit n len
  have hw := wrap_eq_sub len n
  rw [wrap_of_bounds h1 h2] at hw
  linarith

theorem regAt_of_trits {w : Word} {lo : Nat} {r : Fin 27} (h : ∀ k, k < 3 → w.get (lo + k) = digit k (fieldOfReg r)) :
    w.regAt lo = r := by
  have hb := fieldOfReg_bounds r
  rw [Trits.regAt, field_of_trits h hb.1 hb.2, regOfField_fieldOfReg]

theorem csrAt_of_trits {w : Word} {c : Csr} (h : ∀ k, k < 3 → w.get (10 + k) = digit k c.address) : w.csrAt = c := by
  have hb := address_bounds c
  rw [Trits.csrAt, field_of_trits h hb.1 hb.2, csrOfAddress_address]

theorem slice_of_trits {w : Word} {lo len : Nat} {x : Trits len} (h : ∀ k, k < len → w.get (lo + k) = x.get k) :
    w.slice lo len = x := by
  refine Trits.ext_get fun i hi => ?_
  rw [Trits.slice, Trits.get_ofFn_lt _ hi, h i hi]

theorem field_bounds {n : Nat} (w : Trits n) (lo len : Nat) :
    -half3 len ≤ w.field lo len ∧ w.field lo len ≤ half3 len := sumTrits_bounds _ _

/-- The trits of a field are the digits of its value. -/
theorem digit_field {n : Nat} (w : Trits n) (lo len : Nat) {k : Nat} (h : k < len) :
    digit k (w.field lo len) = w.get (lo + k) := digit_sumTrits _ _ h

theorem digit_regAt (w : Word) (lo : Nat) {k : Nat} (h : k < 3) :
    digit k (fieldOfReg (w.regAt lo)) = w.get (lo + k) := by
  have hb := field_bounds w lo 3
  have h3 : half3 3 = 13 := by decide
  rw [h3] at hb
  rw [Trits.regAt, fieldOfReg_regOfField hb.1 hb.2, digit_field _ _ _ h]

theorem digit_csrAt (w : Word) {k : Nat} (h : k < 3) : digit k w.csrAt.address = w.get (10 + k) := by
  have hb := field_bounds w 10 3
  have h3 : half3 3 = 13 := by decide
  rw [h3] at hb
  rw [Trits.csrAt, address_csrOfAddress hb.1 hb.2, digit_field _ _ _ h]

/-- The opcode determines the first four trits (R112). -/
theorem get_of_opcode {w : Word} {c : Int} (h : opcodeOf w = c) {k : Nat} (hk : k < 4) : w.get k = digit k c := by
  rw [← h, opcodeOf, digit_sumTrits _ _ hk]

theorem opcodeOf_eq (w : Word) :
    opcodeOf w = (w.get 0).val + 3 * (w.get 1).val + 9 * (w.get 2).val + 27 * (w.get 3).val := by
  simp only [opcodeOf, sumTrits, show pow3 1 = 3 from rfl, show pow3 2 = 9 from rfl, show pow3 3 = 27 from rfl,
    pow3_zero]
  ring

end Sys2Proof
end

