-- ==== Sys2Proof/Laws/Memory.lean ====
section
/-! SUPPORT. The laws of memory: read after write, and the canonical form that every write keeps. -/

namespace Sys2Proof.Machine

@[simp] theorem Memory.read_nil (a : Int) : Memory.read [] a = zeroWord := rfl

/-- A write leaves every other address alone, in any list of cells. -/
theorem Memory.read_write_ne (m : Memory) {a b : Int} (v : Word) (h : b ≠ a) :
    (m.write a v).read b = m.read b := by
  induction m with
  | nil => unfold Memory.write; split <;> simp [Memory.read, h]
  | cons e rest ih =>
    obtain ⟨c, u⟩ := e
    unfold Memory.write
    split
    · split <;> simp [Memory.read, h]
    · split
      · subst_vars; split <;> simp [Memory.read, h]
      · simp [Memory.read, ih]

theorem Memory.read_of_wfFrom_le {m : Memory} {lo a : Int} (h : Memory.wfFrom lo m = true) (ha : a ≤ lo) :
    m.read a = zeroWord := by
  induction m generalizing lo with
  | nil => rfl
  | cons e rest ih =>
    obtain ⟨c, u⟩ := e
    simp only [Memory.wfFrom, Bool.and_eq_true, decide_eq_true_eq] at h
    obtain ⟨⟨⟨h1, h2⟩, h3⟩, h4⟩ := h
    rw [Memory.read, if_neg (by omega)]
    exact ih h4 (by omega)

theorem Memory.read_write_same_from {m : Memory} {lo : Int} (h : Memory.wfFrom lo m = true) (a : Int) (v : Word) :
    (m.write a v).read a = v := by
  induction m generalizing lo with
  | nil => unfold Memory.write; split <;> simp_all [Memory.read]
  | cons e rest ih =>
    obtain ⟨c, u⟩ := e
    simp only [Memory.wfFrom, Bool.and_eq_true, decide_eq_true_eq] at h
    obtain ⟨⟨⟨h1, h2⟩, h3⟩, h4⟩ := h
    unfold Memory.write
    split
    · split
      · rw [Memory.read, if_neg (by omega), Memory.read_of_wfFrom_le h4 (by omega)]; simp_all
      · simp [Memory.read]
    · split
      · split
        · rw [Memory.read_of_wfFrom_le h4 (by omega)]; simp_all
        · simp [Memory.read]
      · rw [Memory.read, if_neg (by omega)]; exact ih h4

/-- In canonical form, a read after a write to the same address gives what was written. -/
theorem Memory.read_write_same {m : Memory} (h : m.wf = true) (a : Int) (v : Word) : (m.write a v).read a = v :=
  Memory.read_write_same_from h a v

theorem Memory.wfFrom_mono {m : Memory} {lo lo' : Int} (h : Memory.wfFrom lo m = true) (hl : lo' ≤ lo) :
    Memory.wfFrom lo' m = true := by
  cases m with
  | nil => rfl
  | cons e rest =>
    simp only [Memory.wfFrom, Bool.and_eq_true, decide_eq_true_eq] at h ⊢
    exact ⟨⟨⟨by omega, h.1.1.2⟩, h.1.2⟩, h.2⟩

theorem Memory.wfFrom_write {m : Memory} {lo a : Int} (v : Word) (h : Memory.wfFrom lo m = true) (h1 : lo < a)
    (h2 : a ≤ H) : Memory.wfFrom lo (m.write a v) = true := by
  induction m generalizing lo with
  | nil => unfold Memory.write; split <;> simp_all [Memory.wfFrom]
  | cons e rest ih =>
    obtain ⟨c, u⟩ := e
    have h' := h
    simp only [Memory.wfFrom, Bool.and_eq_true, decide_eq_true_eq] at h
    obtain ⟨⟨⟨h3, h4⟩, h5⟩, h6⟩ := h
    unfold Memory.write
    split
    · split
      · exact h'
      · simp_all [Memory.wfFrom]
    · split
      · split
        · exact Memory.wfFrom_mono h6 (by omega)
        · simp_all [Memory.wfFrom]
      · have := ih h6 (by omega)
        simp_all [Memory.wfFrom]

/-- A write to a word address keeps the canonical form. -/
theorem Memory.wf_write {m : Memory} (h : m.wf = true) (a v : Word) : (m.write a.val v).wf = true := by
  have := word_val_bounds a
  exact Memory.wfFrom_write v h (by omega) (by omega)

theorem Memory.wf_reset : State.reset.mem.wf = true := rfl

end Sys2Proof.Machine
end

