-- ==== Sys2Proof/Laws/State.lean ====
section
/-! SUPPORT. One lemma per field per update of the state: what each named update leaves in each field. -/

namespace Sys2Proof.Machine

/-! ### `setReg` -/

@[simp] theorem State.setReg_vregs (s : State) (r : Reg) (v : Word) : (s.setReg r v).vregs = s.vregs := by unfold State.setReg; split <;> rfl
@[simp] theorem State.setReg_pc (s : State) (r : Reg) (v : Word) : (s.setReg r v).pc = s.pc := by unfold State.setReg; split <;> rfl
@[simp] theorem State.setReg_lmode (s : State) (r : Reg) (v : Word) : (s.setReg r v).lmode = s.lmode := by unfold State.setReg; split <;> rfl
@[simp] theorem State.setReg_flagSign (s : State) (r : Reg) (v : Word) : (s.setReg r v).flagSign = s.flagSign := by unfold State.setReg; split <;> rfl
@[simp] theorem State.setReg_flagCarry (s : State) (r : Reg) (v : Word) : (s.setReg r v).flagCarry = s.flagCarry := by unfold State.setReg; split <;> rfl
@[simp] theorem State.setReg_epc (s : State) (r : Reg) (v : Word) : (s.setReg r v).epc = s.epc := by unfold State.setReg; split <;> rfl
@[simp] theorem State.setReg_ecause (s : State) (r : Reg) (v : Word) : (s.setReg r v).ecause = s.ecause := by unfold State.setReg; split <;> rfl
@[simp] theorem State.setReg_evec (s : State) (r : Reg) (v : Word) : (s.setReg r v).evec = s.evec := by unfold State.setReg; split <;> rfl
@[simp] theorem State.setReg_status (s : State) (r : Reg) (v : Word) : (s.setReg r v).status = s.status := by unfold State.setReg; split <;> rfl
@[simp] theorem State.setReg_esave (s : State) (r : Reg) (v : Word) : (s.setReg r v).esave = s.esave := by unfold State.setReg; split <;> rfl
@[simp] theorem State.setReg_etval (s : State) (r : Reg) (v : Word) : (s.setReg r v).etval = s.etval := by unfold State.setReg; split <;> rfl
@[simp] theorem State.setReg_epc2 (s : State) (r : Reg) (v : Word) : (s.setReg r v).epc2 = s.epc2 := by unfold State.setReg; split <;> rfl
@[simp] theorem State.setReg_ecause2 (s : State) (r : Reg) (v : Word) : (s.setReg r v).ecause2 = s.ecause2 := by unfold State.setReg; split <;> rfl
@[simp] theorem State.setReg_esave2 (s : State) (r : Reg) (v : Word) : (s.setReg r v).esave2 = s.esave2 := by unfold State.setReg; split <;> rfl
@[simp] theorem State.setReg_etval2 (s : State) (r : Reg) (v : Word) : (s.setReg r v).etval2 = s.etval2 := by unfold State.setReg; split <;> rfl
@[simp] theorem State.setReg_mpuSelect (s : State) (r : Reg) (v : Word) : (s.setReg r v).mpuSelect = s.mpuSelect := by unfold State.setReg; split <;> rfl
@[simp] theorem State.setReg_mpu (s : State) (r : Reg) (v : Word) : (s.setReg r v).mpu = s.mpu := by unfold State.setReg; split <;> rfl
@[simp] theorem State.setReg_swpend (s : State) (r : Reg) (v : Word) : (s.setReg r v).swpend = s.swpend := by unfold State.setReg; split <;> rfl
@[simp] theorem State.setReg_ienable (s : State) (r : Reg) (v : Word) : (s.setReg r v).ienable = s.ienable := by unfold State.setReg; split <;> rfl
@[simp] theorem State.setReg_ipriority (s : State) (r : Reg) (v : Word) : (s.setReg r v).ipriority = s.ipriority := by unfold State.setReg; split <;> rfl
@[simp] theorem State.setReg_halted (s : State) (r : Reg) (v : Word) : (s.setReg r v).halted = s.halted := by unfold State.setReg; split <;> rfl
@[simp] theorem State.setReg_mem (s : State) (r : Reg) (v : Word) : (s.setReg r v).mem = s.mem := by unfold State.setReg; split <;> rfl
@[simp] theorem State.setReg_memMap (s : State) (r : Reg) (v : Word) : (s.setReg r v).memMap = s.memMap := by unfold State.setReg; split <;> rfl
@[simp] theorem State.setReg_irqFeed (s : State) (r : Reg) (v : Word) : (s.setReg r v).irqFeed = s.irqFeed := by unfold State.setReg; split <;> rfl
@[simp] theorem State.setReg_freeCount (s : State) (r : Reg) (v : Word) : (s.setReg r v).freeCount = s.freeCount := by unfold State.setReg; split <;> rfl

/-! ### `setVreg` -/

@[simp] theorem State.setVreg_regs (s : State) (r : VReg) (v : Word) : (s.setVreg r v).regs = s.regs := rfl
@[simp] theorem State.setVreg_vregs (s : State) (r : VReg) (v : Word) : (s.setVreg r v).vregs = s.vregs.set r.val v r.isLt := rfl
@[simp] theorem State.setVreg_pc (s : State) (r : VReg) (v : Word) : (s.setVreg r v).pc = s.pc := rfl
@[simp] theorem State.setVreg_lmode (s : State) (r : VReg) (v : Word) : (s.setVreg r v).lmode = s.lmode := rfl
@[simp] theorem State.setVreg_flagSign (s : State) (r : VReg) (v : Word) : (s.setVreg r v).flagSign = s.flagSign := rfl
@[simp] theorem State.setVreg_flagCarry (s : State) (r : VReg) (v : Word) : (s.setVreg r v).flagCarry = s.flagCarry := rfl
@[simp] theorem State.setVreg_epc (s : State) (r : VReg) (v : Word) : (s.setVreg r v).epc = s.epc := rfl
@[simp] theorem State.setVreg_ecause (s : State) (r : VReg) (v : Word) : (s.setVreg r v).ecause = s.ecause := rfl
@[simp] theorem State.setVreg_evec (s : State) (r : VReg) (v : Word) : (s.setVreg r v).evec = s.evec := rfl
@[simp] theorem State.setVreg_status (s : State) (r : VReg) (v : Word) : (s.setVreg r v).status = s.status := rfl
@[simp] theorem State.setVreg_esave (s : State) (r : VReg) (v : Word) : (s.setVreg r v).esave = s.esave := rfl
@[simp] theorem State.setVreg_etval (s : State) (r : VReg) (v : Word) : (s.setVreg r v).etval = s.etval := rfl
@[simp] theorem State.setVreg_epc2 (s : State) (r : VReg) (v : Word) : (s.setVreg r v).epc2 = s.epc2 := rfl
@[simp] theorem State.setVreg_ecause2 (s : State) (r : VReg) (v : Word) : (s.setVreg r v).ecause2 = s.ecause2 := rfl
@[simp] theorem State.setVreg_esave2 (s : State) (r : VReg) (v : Word) : (s.setVreg r v).esave2 = s.esave2 := rfl
@[simp] theorem State.setVreg_etval2 (s : State) (r : VReg) (v : Word) : (s.setVreg r v).etval2 = s.etval2 := rfl
@[simp] theorem State.setVreg_mpuSelect (s : State) (r : VReg) (v : Word) : (s.setVreg r v).mpuSelect = s.mpuSelect := rfl
@[simp] theorem State.setVreg_mpu (s : State) (r : VReg) (v : Word) : (s.setVreg r v).mpu = s.mpu := rfl
@[simp] theorem State.setVreg_swpend (s : State) (r : VReg) (v : Word) : (s.setVreg r v).swpend = s.swpend := rfl
@[simp] theorem State.setVreg_ienable (s : State) (r : VReg) (v : Word) : (s.setVreg r v).ienable = s.ienable := rfl
@[simp] theorem State.setVreg_ipriority (s : State) (r : VReg) (v : Word) : (s.setVreg r v).ipriority = s.ipriority := rfl
@[simp] theorem State.setVreg_halted (s : State) (r : VReg) (v : Word) : (s.setVreg r v).halted = s.halted := rfl
@[simp] theorem State.setVreg_mem (s : State) (r : VReg) (v : Word) : (s.setVreg r v).mem = s.mem := rfl
@[simp] theorem State.setVreg_memMap (s : State) (r : VReg) (v : Word) : (s.setVreg r v).memMap = s.memMap := rfl
@[simp] theorem State.setVreg_irqFeed (s : State) (r : VReg) (v : Word) : (s.setVreg r v).irqFeed = s.irqFeed := rfl
@[simp] theorem State.setVreg_freeCount (s : State) (r : VReg) (v : Word) : (s.setVreg r v).freeCount = s.freeCount := rfl

/-! ### `setFlags` -/

@[simp] theorem State.setFlags_regs (s : State) (a b : Trit) : (s.setFlags a b).regs = s.regs := rfl
@[simp] theorem State.setFlags_vregs (s : State) (a b : Trit) : (s.setFlags a b).vregs = s.vregs := rfl
@[simp] theorem State.setFlags_pc (s : State) (a b : Trit) : (s.setFlags a b).pc = s.pc := rfl
@[simp] theorem State.setFlags_lmode (s : State) (a b : Trit) : (s.setFlags a b).lmode = s.lmode := rfl
@[simp] theorem State.setFlags_flagSign (s : State) (a b : Trit) : (s.setFlags a b).flagSign = a := rfl
@[simp] theorem State.setFlags_flagCarry (s : State) (a b : Trit) : (s.setFlags a b).flagCarry = b := rfl
@[simp] theorem State.setFlags_epc (s : State) (a b : Trit) : (s.setFlags a b).epc = s.epc := rfl
@[simp] theorem State.setFlags_ecause (s : State) (a b : Trit) : (s.setFlags a b).ecause = s.ecause := rfl
@[simp] theorem State.setFlags_evec (s : State) (a b : Trit) : (s.setFlags a b).evec = s.evec := rfl
@[simp] theorem State.setFlags_status (s : State) (a b : Trit) : (s.setFlags a b).status = s.status := rfl
@[simp] theorem State.setFlags_esave (s : State) (a b : Trit) : (s.setFlags a b).esave = s.esave := rfl
@[simp] theorem State.setFlags_etval (s : State) (a b : Trit) : (s.setFlags a b).etval = s.etval := rfl
@[simp] theorem State.setFlags_epc2 (s : State) (a b : Trit) : (s.setFlags a b).epc2 = s.epc2 := rfl
@[simp] theorem State.setFlags_ecause2 (s : State) (a b : Trit) : (s.setFlags a b).ecause2 = s.ecause2 := rfl
@[simp] theorem State.setFlags_esave2 (s : State) (a b : Trit) : (s.setFlags a b).esave2 = s.esave2 := rfl
@[simp] theorem State.setFlags_etval2 (s : State) (a b : Trit) : (s.setFlags a b).etval2 = s.etval2 := rfl
@[simp] theorem State.setFlags_mpuSelect (s : State) (a b : Trit) : (s.setFlags a b).mpuSelect = s.mpuSelect := rfl
@[simp] theorem State.setFlags_mpu (s : State) (a b : Trit) : (s.setFlags a b).mpu = s.mpu := rfl
@[simp] theorem State.setFlags_swpend (s : State) (a b : Trit) : (s.setFlags a b).swpend = s.swpend := rfl
@[simp] theorem State.setFlags_ienable (s : State) (a b : Trit) : (s.setFlags a b).ienable = s.ienable := rfl
@[simp] theorem State.setFlags_ipriority (s : State) (a b : Trit) : (s.setFlags a b).ipriority = s.ipriority := rfl
@[simp] theorem State.setFlags_halted (s : State) (a b : Trit) : (s.setFlags a b).halted = s.halted := rfl
@[simp] theorem State.setFlags_mem (s : State) (a b : Trit) : (s.setFlags a b).mem = s.mem := rfl
@[simp] theorem State.setFlags_memMap (s : State) (a b : Trit) : (s.setFlags a b).memMap = s.memMap := rfl
@[simp] theorem State.setFlags_irqFeed (s : State) (a b : Trit) : (s.setFlags a b).irqFeed = s.irqFeed := rfl
@[simp] theorem State.setFlags_freeCount (s : State) (a b : Trit) : (s.setFlags a b).freeCount = s.freeCount := rfl

/-! ### `advance` -/

@[simp] theorem State.advance_regs (s : State) : (s.advance).regs = s.regs := by simp only [State.advance]
@[simp] theorem State.advance_vregs (s : State) : (s.advance).vregs = s.vregs := by simp only [State.advance]
@[simp] theorem State.advance_pc (s : State) : (s.advance).pc = s.nextPc := by simp only [State.advance]
@[simp] theorem State.advance_lmode (s : State) : (s.advance).lmode = s.lmode := by simp only [State.advance]
@[simp] theorem State.advance_flagSign (s : State) : (s.advance).flagSign = s.flagSign := by simp only [State.advance]
@[simp] theorem State.advance_flagCarry (s : State) : (s.advance).flagCarry = s.flagCarry := by simp only [State.advance]
@[simp] theorem State.advance_epc (s : State) : (s.advance).epc = s.epc := by simp only [State.advance]
@[simp] theorem State.advance_ecause (s : State) : (s.advance).ecause = s.ecause := by simp only [State.advance]
@[simp] theorem State.advance_evec (s : State) : (s.advance).evec = s.evec := by simp only [State.advance]
@[simp] theorem State.advance_status (s : State) : (s.advance).status = s.status := by simp only [State.advance]
@[simp] theorem State.advance_esave (s : State) : (s.advance).esave = s.esave := by simp only [State.advance]
@[simp] theorem State.advance_etval (s : State) : (s.advance).etval = s.etval := by simp only [State.advance]
@[simp] theorem State.advance_epc2 (s : State) : (s.advance).epc2 = s.epc2 := by simp only [State.advance]
@[simp] theorem State.advance_ecause2 (s : State) : (s.advance).ecause2 = s.ecause2 := by simp only [State.advance]
@[simp] theorem State.advance_esave2 (s : State) : (s.advance).esave2 = s.esave2 := by simp only [State.advance]
@[simp] theorem State.advance_etval2 (s : State) : (s.advance).etval2 = s.etval2 := by simp only [State.advance]
@[simp] theorem State.advance_mpuSelect (s : State) : (s.advance).mpuSelect = s.mpuSelect := by simp only [State.advance]
@[simp] theorem State.advance_mpu (s : State) : (s.advance).mpu = s.mpu := by simp only [State.advance]
@[simp] theorem State.advance_swpend (s : State) : (s.advance).swpend = s.swpend := by simp only [State.advance]
@[simp] theorem State.advance_ienable (s : State) : (s.advance).ienable = s.ienable := by simp only [State.advance]
@[simp] theorem State.advance_ipriority (s : State) : (s.advance).ipriority = s.ipriority := by simp only [State.advance]
@[simp] theorem State.advance_halted (s : State) : (s.advance).halted = s.halted := by simp only [State.advance]
@[simp] theorem State.advance_mem (s : State) : (s.advance).mem = s.mem := by simp only [State.advance]
@[simp] theorem State.advance_memMap (s : State) : (s.advance).memMap = s.memMap := by simp only [State.advance]
@[simp] theorem State.advance_irqFeed (s : State) : (s.advance).irqFeed = s.irqFeed := by simp only [State.advance]
@[simp] theorem State.advance_freeCount (s : State) : (s.advance).freeCount = s.freeCount := by simp only [State.advance]

/-! ### `jump` -/

@[simp] theorem State.jump_regs (s : State) (a : Word) : (s.jump a).regs = s.regs := rfl
@[simp] theorem State.jump_vregs (s : State) (a : Word) : (s.jump a).vregs = s.vregs := rfl
@[simp] theorem State.jump_pc (s : State) (a : Word) : (s.jump a).pc = a := rfl
@[simp] theorem State.jump_lmode (s : State) (a : Word) : (s.jump a).lmode = s.lmode := rfl
@[simp] theorem State.jump_flagSign (s : State) (a : Word) : (s.jump a).flagSign = s.flagSign := rfl
@[simp] theorem State.jump_flagCarry (s : State) (a : Word) : (s.jump a).flagCarry = s.flagCarry := rfl
@[simp] theorem State.jump_epc (s : State) (a : Word) : (s.jump a).epc = s.epc := rfl
@[simp] theorem State.jump_ecause (s : State) (a : Word) : (s.jump a).ecause = s.ecause := rfl
@[simp] theorem State.jump_evec (s : State) (a : Word) : (s.jump a).evec = s.evec := rfl
@[simp] theorem State.jump_status (s : State) (a : Word) : (s.jump a).status = s.status := rfl
@[simp] theorem State.jump_esave (s : State) (a : Word) : (s.jump a).esave = s.esave := rfl
@[simp] theorem State.jump_etval (s : State) (a : Word) : (s.jump a).etval = s.etval := rfl
@[simp] theorem State.jump_epc2 (s : State) (a : Word) : (s.jump a).epc2 = s.epc2 := rfl
@[simp] theorem State.jump_ecause2 (s : State) (a : Word) : (s.jump a).ecause2 = s.ecause2 := rfl
@[simp] theorem State.jump_esave2 (s : State) (a : Word) : (s.jump a).esave2 = s.esave2 := rfl
@[simp] theorem State.jump_etval2 (s : State) (a : Word) : (s.jump a).etval2 = s.etval2 := rfl
@[simp] theorem State.jump_mpuSelect (s : State) (a : Word) : (s.jump a).mpuSelect = s.mpuSelect := rfl
@[simp] theorem State.jump_mpu (s : State) (a : Word) : (s.jump a).mpu = s.mpu := rfl
@[simp] theorem State.jump_swpend (s : State) (a : Word) : (s.jump a).swpend = s.swpend := rfl
@[simp] theorem State.jump_ienable (s : State) (a : Word) : (s.jump a).ienable = s.ienable := rfl
@[simp] theorem State.jump_ipriority (s : State) (a : Word) : (s.jump a).ipriority = s.ipriority := rfl
@[simp] theorem State.jump_halted (s : State) (a : Word) : (s.jump a).halted = s.halted := rfl
@[simp] theorem State.jump_mem (s : State) (a : Word) : (s.jump a).mem = s.mem := rfl
@[simp] theorem State.jump_memMap (s : State) (a : Word) : (s.jump a).memMap = s.memMap := rfl
@[simp] theorem State.jump_irqFeed (s : State) (a : Word) : (s.jump a).irqFeed = s.irqFeed := rfl
@[simp] theorem State.jump_freeCount (s : State) (a : Word) : (s.jump a).freeCount = s.freeCount := rfl

/-! ### `drawFree` -/

@[simp] theorem State.drawFree_regs (s : State) : (s.drawFree.2).regs = s.regs := rfl
@[simp] theorem State.drawFree_vregs (s : State) : (s.drawFree.2).vregs = s.vregs := rfl
@[simp] theorem State.drawFree_pc (s : State) : (s.drawFree.2).pc = s.pc := rfl
@[simp] theorem State.drawFree_lmode (s : State) : (s.drawFree.2).lmode = s.lmode := rfl
@[simp] theorem State.drawFree_flagSign (s : State) : (s.drawFree.2).flagSign = s.flagSign := rfl
@[simp] theorem State.drawFree_flagCarry (s : State) : (s.drawFree.2).flagCarry = s.flagCarry := rfl
@[simp] theorem State.drawFree_epc (s : State) : (s.drawFree.2).epc = s.epc := rfl
@[simp] theorem State.drawFree_ecause (s : State) : (s.drawFree.2).ecause = s.ecause := rfl
@[simp] theorem State.drawFree_evec (s : State) : (s.drawFree.2).evec = s.evec := rfl
@[simp] theorem State.drawFree_status (s : State) : (s.drawFree.2).status = s.status := rfl
@[simp] theorem State.drawFree_esave (s : State) : (s.drawFree.2).esave = s.esave := rfl
@[simp] theorem State.drawFree_etval (s : State) : (s.drawFree.2).etval = s.etval := rfl
@[simp] theorem State.drawFree_epc2 (s : State) : (s.drawFree.2).epc2 = s.epc2 := rfl
@[simp] theorem State.drawFree_ecause2 (s : State) : (s.drawFree.2).ecause2 = s.ecause2 := rfl
@[simp] theorem State.drawFree_esave2 (s : State) : (s.drawFree.2).esave2 = s.esave2 := rfl
@[simp] theorem State.drawFree_etval2 (s : State) : (s.drawFree.2).etval2 = s.etval2 := rfl
@[simp] theorem State.drawFree_mpuSelect (s : State) : (s.drawFree.2).mpuSelect = s.mpuSelect := rfl
@[simp] theorem State.drawFree_mpu (s : State) : (s.drawFree.2).mpu = s.mpu := rfl
@[simp] theorem State.drawFree_swpend (s : State) : (s.drawFree.2).swpend = s.swpend := rfl
@[simp] theorem State.drawFree_ienable (s : State) : (s.drawFree.2).ienable = s.ienable := rfl
@[simp] theorem State.drawFree_ipriority (s : State) : (s.drawFree.2).ipriority = s.ipriority := rfl
@[simp] theorem State.drawFree_halted (s : State) : (s.drawFree.2).halted = s.halted := rfl
@[simp] theorem State.drawFree_mem (s : State) : (s.drawFree.2).mem = s.mem := rfl
@[simp] theorem State.drawFree_memMap (s : State) : (s.drawFree.2).memMap = s.memMap := rfl
@[simp] theorem State.drawFree_irqFeed (s : State) : (s.drawFree.2).irqFeed = s.irqFeed := rfl
@[simp] theorem State.drawFree_freeCount (s : State) : (s.drawFree.2).freeCount = s.freeCount + 1 := rfl

/-! ### `setSelected` -/

@[simp] theorem State.setSelected_regs (s : State) (d : MpuDesc) : (s.setSelected d).regs = s.regs := rfl
@[simp] theorem State.setSelected_vregs (s : State) (d : MpuDesc) : (s.setSelected d).vregs = s.vregs := rfl
@[simp] theorem State.setSelected_pc (s : State) (d : MpuDesc) : (s.setSelected d).pc = s.pc := rfl
@[simp] theorem State.setSelected_lmode (s : State) (d : MpuDesc) : (s.setSelected d).lmode = s.lmode := rfl
@[simp] theorem State.setSelected_flagSign (s : State) (d : MpuDesc) : (s.setSelected d).flagSign = s.flagSign := rfl
@[simp] theorem State.setSelected_flagCarry (s : State) (d : MpuDesc) : (s.setSelected d).flagCarry = s.flagCarry := rfl
@[simp] theorem State.setSelected_epc (s : State) (d : MpuDesc) : (s.setSelected d).epc = s.epc := rfl
@[simp] theorem State.setSelected_ecause (s : State) (d : MpuDesc) : (s.setSelected d).ecause = s.ecause := rfl
@[simp] theorem State.setSelected_evec (s : State) (d : MpuDesc) : (s.setSelected d).evec = s.evec := rfl
@[simp] theorem State.setSelected_status (s : State) (d : MpuDesc) : (s.setSelected d).status = s.status := rfl
@[simp] theorem State.setSelected_esave (s : State) (d : MpuDesc) : (s.setSelected d).esave = s.esave := rfl
@[simp] theorem State.setSelected_etval (s : State) (d : MpuDesc) : (s.setSelected d).etval = s.etval := rfl
@[simp] theorem State.setSelected_epc2 (s : State) (d : MpuDesc) : (s.setSelected d).epc2 = s.epc2 := rfl
@[simp] theorem State.setSelected_ecause2 (s : State) (d : MpuDesc) : (s.setSelected d).ecause2 = s.ecause2 := rfl
@[simp] theorem State.setSelected_esave2 (s : State) (d : MpuDesc) : (s.setSelected d).esave2 = s.esave2 := rfl
@[simp] theorem State.setSelected_etval2 (s : State) (d : MpuDesc) : (s.setSelected d).etval2 = s.etval2 := rfl
@[simp] theorem State.setSelected_mpuSelect (s : State) (d : MpuDesc) : (s.setSelected d).mpuSelect = s.mpuSelect := rfl
@[simp] theorem State.setSelected_mpu (s : State) (d : MpuDesc) : (s.setSelected d).mpu = s.mpu.set s.mpuSelect.val d s.mpuSelect.isLt := rfl
@[simp] theorem State.setSelected_swpend (s : State) (d : MpuDesc) : (s.setSelected d).swpend = s.swpend := rfl
@[simp] theorem State.setSelected_ienable (s : State) (d : MpuDesc) : (s.setSelected d).ienable = s.ienable := rfl
@[simp] theorem State.setSelected_ipriority (s : State) (d : MpuDesc) : (s.setSelected d).ipriority = s.ipriority := rfl
@[simp] theorem State.setSelected_halted (s : State) (d : MpuDesc) : (s.setSelected d).halted = s.halted := rfl
@[simp] theorem State.setSelected_mem (s : State) (d : MpuDesc) : (s.setSelected d).mem = s.mem := rfl
@[simp] theorem State.setSelected_memMap (s : State) (d : MpuDesc) : (s.setSelected d).memMap = s.memMap := rfl
@[simp] theorem State.setSelected_irqFeed (s : State) (d : MpuDesc) : (s.setSelected d).irqFeed = s.irqFeed := rfl
@[simp] theorem State.setSelected_freeCount (s : State) (d : MpuDesc) : (s.setSelected d).freeCount = s.freeCount := rfl

/-! ### `sampleLines` -/

@[simp] theorem State.sampleLines_regs (s : State) : (s.sampleLines.2).regs = s.regs := by unfold State.sampleLines; split <;> simp_all
@[simp] theorem State.sampleLines_vregs (s : State) : (s.sampleLines.2).vregs = s.vregs := by unfold State.sampleLines; split <;> simp_all
@[simp] theorem State.sampleLines_pc (s : State) : (s.sampleLines.2).pc = s.pc := by unfold State.sampleLines; split <;> simp_all
@[simp] theorem State.sampleLines_lmode (s : State) : (s.sampleLines.2).lmode = s.lmode := by unfold State.sampleLines; split <;> simp_all
@[simp] theorem State.sampleLines_flagSign (s : State) : (s.sampleLines.2).flagSign = s.flagSign := by unfold State.sampleLines; split <;> simp_all
@[simp] theorem State.sampleLines_flagCarry (s : State) : (s.sampleLines.2).flagCarry = s.flagCarry := by unfold State.sampleLines; split <;> simp_all
@[simp] theorem State.sampleLines_epc (s : State) : (s.sampleLines.2).epc = s.epc := by unfold State.sampleLines; split <;> simp_all
@[simp] theorem State.sampleLines_ecause (s : State) : (s.sampleLines.2).ecause = s.ecause := by unfold State.sampleLines; split <;> simp_all
@[simp] theorem State.sampleLines_evec (s : State) : (s.sampleLines.2).evec = s.evec := by unfold State.sampleLines; split <;> simp_all
@[simp] theorem State.sampleLines_status (s : State) : (s.sampleLines.2).status = s.status := by unfold State.sampleLines; split <;> simp_all
@[simp] theorem State.sampleLines_esave (s : State) : (s.sampleLines.2).esave = s.esave := by unfold State.sampleLines; split <;> simp_all
@[simp] theorem State.sampleLines_etval (s : State) : (s.sampleLines.2).etval = s.etval := by unfold State.sampleLines; split <;> simp_all
@[simp] theorem State.sampleLines_epc2 (s : State) : (s.sampleLines.2).epc2 = s.epc2 := by unfold State.sampleLines; split <;> simp_all
@[simp] theorem State.sampleLines_ecause2 (s : State) : (s.sampleLines.2).ecause2 = s.ecause2 := by unfold State.sampleLines; split <;> simp_all
@[simp] theorem State.sampleLines_esave2 (s : State) : (s.sampleLines.2).esave2 = s.esave2 := by unfold State.sampleLines; split <;> simp_all
@[simp] theorem State.sampleLines_etval2 (s : State) : (s.sampleLines.2).etval2 = s.etval2 := by unfold State.sampleLines; split <;> simp_all
@[simp] theorem State.sampleLines_mpuSelect (s : State) : (s.sampleLines.2).mpuSelect = s.mpuSelect := by unfold State.sampleLines; split <;> simp_all
@[simp] theorem State.sampleLines_mpu (s : State) : (s.sampleLines.2).mpu = s.mpu := by unfold State.sampleLines; split <;> simp_all
@[simp] theorem State.sampleLines_swpend (s : State) : (s.sampleLines.2).swpend = s.swpend := by unfold State.sampleLines; split <;> simp_all
@[simp] theorem State.sampleLines_ienable (s : State) : (s.sampleLines.2).ienable = s.ienable := by unfold State.sampleLines; split <;> simp_all
@[simp] theorem State.sampleLines_ipriority (s : State) : (s.sampleLines.2).ipriority = s.ipriority := by unfold State.sampleLines; split <;> simp_all
@[simp] theorem State.sampleLines_halted (s : State) : (s.sampleLines.2).halted = s.halted := by unfold State.sampleLines; split <;> simp_all
@[simp] theorem State.sampleLines_mem (s : State) : (s.sampleLines.2).mem = s.mem := by unfold State.sampleLines; split <;> simp_all
@[simp] theorem State.sampleLines_memMap (s : State) : (s.sampleLines.2).memMap = s.memMap := by unfold State.sampleLines; split <;> simp_all
@[simp] theorem State.sampleLines_irqFeed (s : State) : (s.sampleLines.2).irqFeed = s.irqFeed.tail := by unfold State.sampleLines; split <;> simp_all
@[simp] theorem State.sampleLines_freeCount (s : State) : (s.sampleLines.2).freeCount = s.freeCount := by unfold State.sampleLines; split <;> simp_all

/-! ### `enterMain` -/

@[simp] theorem State.enterMain_regs (s : State) (c : Int) (v e : Word) : (s.enterMain c v e).regs = s.regs := rfl
@[simp] theorem State.enterMain_vregs (s : State) (c : Int) (v e : Word) : (s.enterMain c v e).vregs = s.vregs := rfl
@[simp] theorem State.enterMain_pc (s : State) (c : Int) (v e : Word) : (s.enterMain c v e).pc = s.evec := rfl
@[simp] theorem State.enterMain_lmode (s : State) (c : Int) (v e : Word) : (s.enterMain c v e).lmode = s.lmode := rfl
@[simp] theorem State.enterMain_flagSign (s : State) (c : Int) (v e : Word) : (s.enterMain c v e).flagSign = s.flagSign := rfl
@[simp] theorem State.enterMain_flagCarry (s : State) (c : Int) (v e : Word) : (s.enterMain c v e).flagCarry = s.flagCarry := rfl
@[simp] theorem State.enterMain_epc (s : State) (c : Int) (v e : Word) : (s.enterMain c v e).epc = e := rfl
@[simp] theorem State.enterMain_ecause (s : State) (c : Int) (v e : Word) : (s.enterMain c v e).ecause = word c := rfl
@[simp] theorem State.enterMain_evec (s : State) (c : Int) (v e : Word) : (s.enterMain c v e).evec = s.evec := rfl
@[simp] theorem State.enterMain_status (s : State) (c : Int) (v e : Word) : (s.enterMain c v e).status = enterStatus s.status .P := rfl
@[simp] theorem State.enterMain_esave (s : State) (c : Int) (v e : Word) : (s.enterMain c v e).esave = s.status := rfl
@[simp] theorem State.enterMain_etval (s : State) (c : Int) (v e : Word) : (s.enterMain c v e).etval = v := rfl
@[simp] theorem State.enterMain_epc2 (s : State) (c : Int) (v e : Word) : (s.enterMain c v e).epc2 = s.epc2 := rfl
@[simp] theorem State.enterMain_ecause2 (s : State) (c : Int) (v e : Word) : (s.enterMain c v e).ecause2 = s.ecause2 := rfl
@[simp] theorem State.enterMain_esave2 (s : State) (c : Int) (v e : Word) : (s.enterMain c v e).esave2 = s.esave2 := rfl
@[simp] theorem State.enterMain_etval2 (s : State) (c : Int) (v e : Word) : (s.enterMain c v e).etval2 = s.etval2 := rfl
@[simp] theorem State.enterMain_mpuSelect (s : State) (c : Int) (v e : Word) : (s.enterMain c v e).mpuSelect = s.mpuSelect := rfl
@[simp] theorem State.enterMain_mpu (s : State) (c : Int) (v e : Word) : (s.enterMain c v e).mpu = s.mpu := rfl
@[simp] theorem State.enterMain_swpend (s : State) (c : Int) (v e : Word) : (s.enterMain c v e).swpend = s.swpend := rfl
@[simp] theorem State.enterMain_ienable (s : State) (c : Int) (v e : Word) : (s.enterMain c v e).ienable = s.ienable := rfl
@[simp] theorem State.enterMain_ipriority (s : State) (c : Int) (v e : Word) : (s.enterMain c v e).ipriority = s.ipriority := rfl
@[simp] theorem State.enterMain_halted (s : State) (c : Int) (v e : Word) : (s.enterMain c v e).halted = s.halted := rfl
@[simp] theorem State.enterMain_mem (s : State) (c : Int) (v e : Word) : (s.enterMain c v e).mem = s.mem := rfl
@[simp] theorem State.enterMain_memMap (s : State) (c : Int) (v e : Word) : (s.enterMain c v e).memMap = s.memMap := rfl
@[simp] theorem State.enterMain_irqFeed (s : State) (c : Int) (v e : Word) : (s.enterMain c v e).irqFeed = s.irqFeed := rfl
@[simp] theorem State.enterMain_freeCount (s : State) (c : Int) (v e : Word) : (s.enterMain c v e).freeCount = s.freeCount := rfl

/-! ### `enterNested` -/

@[simp] theorem State.enterNested_regs (s : State) (c : Int) (v e : Word) : (s.enterNested c v e).regs = s.regs := rfl
@[simp] theorem State.enterNested_vregs (s : State) (c : Int) (v e : Word) : (s.enterNested c v e).vregs = s.vregs := rfl
@[simp] theorem State.enterNested_pc (s : State) (c : Int) (v e : Word) : (s.enterNested c v e).pc = s.evec := rfl
@[simp] theorem State.enterNested_lmode (s : State) (c : Int) (v e : Word) : (s.enterNested c v e).lmode = s.lmode := rfl
@[simp] theorem State.enterNested_flagSign (s : State) (c : Int) (v e : Word) : (s.enterNested c v e).flagSign = s.flagSign := rfl
@[simp] theorem State.enterNested_flagCarry (s : State) (c : Int) (v e : Word) : (s.enterNested c v e).flagCarry = s.flagCarry := rfl
@[simp] theorem State.enterNested_epc (s : State) (c : Int) (v e : Word) : (s.enterNested c v e).epc = s.epc := rfl
@[simp] theorem State.enterNested_ecause (s : State) (c : Int) (v e : Word) : (s.enterNested c v e).ecause = s.ecause := rfl
@[simp] theorem State.enterNested_evec (s : State) (c : Int) (v e : Word) : (s.enterNested c v e).evec = s.evec := rfl
@[simp] theorem State.enterNested_status (s : State) (c : Int) (v e : Word) : (s.enterNested c v e).status = enterStatus s.status .N := rfl
@[simp] theorem State.enterNested_esave (s : State) (c : Int) (v e : Word) : (s.enterNested c v e).esave = s.esave := rfl
@[simp] theorem State.enterNested_etval (s : State) (c : Int) (v e : Word) : (s.enterNested c v e).etval = s.etval := rfl
@[simp] theorem State.enterNested_epc2 (s : State) (c : Int) (v e : Word) : (s.enterNested c v e).epc2 = e := rfl
@[simp] theorem State.enterNested_ecause2 (s : State) (c : Int) (v e : Word) : (s.enterNested c v e).ecause2 = word c := rfl
@[simp] theorem State.enterNested_esave2 (s : State) (c : Int) (v e : Word) : (s.enterNested c v e).esave2 = s.status := rfl
@[simp] theorem State.enterNested_etval2 (s : State) (c : Int) (v e : Word) : (s.enterNested c v e).etval2 = v := rfl
@[simp] theorem State.enterNested_mpuSelect (s : State) (c : Int) (v e : Word) : (s.enterNested c v e).mpuSelect = s.mpuSelect := rfl
@[simp] theorem State.enterNested_mpu (s : State) (c : Int) (v e : Word) : (s.enterNested c v e).mpu = s.mpu := rfl
@[simp] theorem State.enterNested_swpend (s : State) (c : Int) (v e : Word) : (s.enterNested c v e).swpend = s.swpend := rfl
@[simp] theorem State.enterNested_ienable (s : State) (c : Int) (v e : Word) : (s.enterNested c v e).ienable = s.ienable := rfl
@[simp] theorem State.enterNested_ipriority (s : State) (c : Int) (v e : Word) : (s.enterNested c v e).ipriority = s.ipriority := rfl
@[simp] theorem State.enterNested_halted (s : State) (c : Int) (v e : Word) : (s.enterNested c v e).halted = s.halted := rfl
@[simp] theorem State.enterNested_mem (s : State) (c : Int) (v e : Word) : (s.enterNested c v e).mem = s.mem := rfl
@[simp] theorem State.enterNested_memMap (s : State) (c : Int) (v e : Word) : (s.enterNested c v e).memMap = s.memMap := rfl
@[simp] theorem State.enterNested_irqFeed (s : State) (c : Int) (v e : Word) : (s.enterNested c v e).irqFeed = s.irqFeed := rfl
@[simp] theorem State.enterNested_freeCount (s : State) (c : Int) (v e : Word) : (s.enterNested c v e).freeCount = s.freeCount := rfl

/-! ### `machineCheckReset` -/

@[simp] theorem State.machineCheckReset_regs (s : State) : (s.machineCheckReset).regs = s.regs := rfl
@[simp] theorem State.machineCheckReset_vregs (s : State) : (s.machineCheckReset).vregs = s.vregs := rfl
@[simp] theorem State.machineCheckReset_pc (s : State) : (s.machineCheckReset).pc = State.reset.pc := rfl
@[simp] theorem State.machineCheckReset_lmode (s : State) : (s.machineCheckReset).lmode = State.reset.lmode := rfl
@[simp] theorem State.machineCheckReset_flagSign (s : State) : (s.machineCheckReset).flagSign = State.reset.flagSign := rfl
@[simp] theorem State.machineCheckReset_flagCarry (s : State) : (s.machineCheckReset).flagCarry = State.reset.flagCarry := rfl
@[simp] theorem State.machineCheckReset_epc (s : State) : (s.machineCheckReset).epc = State.reset.epc := rfl
@[simp] theorem State.machineCheckReset_ecause (s : State) : (s.machineCheckReset).ecause = State.reset.ecause := rfl
@[simp] theorem State.machineCheckReset_evec (s : State) : (s.machineCheckReset).evec = State.reset.evec := rfl
@[simp] theorem State.machineCheckReset_status (s : State) : (s.machineCheckReset).status = State.reset.status := rfl
@[simp] theorem State.machineCheckReset_esave (s : State) : (s.machineCheckReset).esave = State.reset.esave := rfl
@[simp] theorem State.machineCheckReset_etval (s : State) : (s.machineCheckReset).etval = State.reset.etval := rfl
@[simp] theorem State.machineCheckReset_epc2 (s : State) : (s.machineCheckReset).epc2 = State.reset.epc2 := rfl
@[simp] theorem State.machineCheckReset_ecause2 (s : State) : (s.machineCheckReset).ecause2 = State.reset.ecause2 := rfl
@[simp] theorem State.machineCheckReset_esave2 (s : State) : (s.machineCheckReset).esave2 = State.reset.esave2 := rfl
@[simp] theorem State.machineCheckReset_etval2 (s : State) : (s.machineCheckReset).etval2 = State.reset.etval2 := rfl
@[simp] theorem State.machineCheckReset_mpuSelect (s : State) : (s.machineCheckReset).mpuSelect = State.reset.mpuSelect := rfl
@[simp] theorem State.machineCheckReset_mpu (s : State) : (s.machineCheckReset).mpu = State.reset.mpu := rfl
@[simp] theorem State.machineCheckReset_swpend (s : State) : (s.machineCheckReset).swpend = State.reset.swpend := rfl
@[simp] theorem State.machineCheckReset_ienable (s : State) : (s.machineCheckReset).ienable = State.reset.ienable := rfl
@[simp] theorem State.machineCheckReset_ipriority (s : State) : (s.machineCheckReset).ipriority = State.reset.ipriority := rfl
@[simp] theorem State.machineCheckReset_halted (s : State) : (s.machineCheckReset).halted = State.reset.halted := rfl
@[simp] theorem State.machineCheckReset_mem (s : State) : (s.machineCheckReset).mem = s.mem := rfl
@[simp] theorem State.machineCheckReset_memMap (s : State) : (s.machineCheckReset).memMap = s.memMap := rfl
@[simp] theorem State.machineCheckReset_irqFeed (s : State) : (s.machineCheckReset).irqFeed = s.irqFeed := rfl
@[simp] theorem State.machineCheckReset_freeCount (s : State) : (s.machineCheckReset).freeCount = s.freeCount := rfl

end Sys2Proof.Machine
end

