-- ==== Sys2Proof/Laws/Ops.lean ====
section
/-! SUPPORT. For each shared operation, one lemma that says what it can do: registers and the ends of instructions,
memory accesses, exception entry and return, CSR access, interrupts. -/

namespace Sys2Proof.Machine

/-! ### Registers -/

@[simp] theorem State.reg_zero (s : State) : s.reg 0 = zeroWord := rfl

theorem State.reg_of_regs_eq {s t : State} (h : t.regs = s.regs) (r : Reg) : t.reg r = s.reg r := by
  simp [State.reg, h]

theorem State.regVal_of_regs_eq {s t : State} (h : t.regs = s.regs) (r : Reg) : t.regVal r = s.regVal r := by
  simp [State.regVal, State.reg_of_regs_eq h]

@[simp] theorem State.regVal_zero (s : State) : s.regVal 0 = 0 := by simp [State.regVal]

theorem State.reg_setReg (s : State) (rd r : Reg) (v : Word) :
    (s.setReg rd v).reg r = if r = rd then (if rd = 0 then zeroWord else v) else s.reg r := by
  unfold State.reg State.setReg
  by_cases h : rd = 0
  · subst h; by_cases h2 : r = 0 <;> simp [h2]
  · by_cases h2 : r = rd
    · subst h2; simp [h]
    · have : rd.val ≠ r.val := fun hc => h2 (Fin.ext hc.symm)
      simp [h, h2, this]

theorem State.vreg_setVreg (s : State) (vd r : VReg) (v : Word) :
    (s.setVreg vd v).vreg r = if r = vd then v else s.vreg r := by
  unfold State.vreg State.setVreg
  by_cases h2 : r = vd
  · subst h2; simp
  · have : vd.val ≠ r.val := fun hc => h2 (Fin.ext hc.symm)
    simp [h2, this]

@[simp] theorem State.reg_setVreg (s : State) (vd : VReg) (v : Word) (r : Reg) : (s.setVreg vd v).reg r = s.reg r :=
  State.reg_of_regs_eq rfl r
@[simp] theorem State.reg_setFlags (s : State) (a b : Trit) (r : Reg) : (s.setFlags a b).reg r = s.reg r :=
  State.reg_of_regs_eq rfl r
@[simp] theorem State.reg_advance (s : State) (r : Reg) : s.advance.reg r = s.reg r :=
  State.reg_of_regs_eq (by simp) r
@[simp] theorem State.reg_jump (s : State) (a : Word) (r : Reg) : (s.jump a).reg r = s.reg r :=
  State.reg_of_regs_eq rfl r
@[simp] theorem State.reg_drawFree (s : State) (r : Reg) : s.drawFree.2.reg r = s.reg r :=
  State.reg_of_regs_eq rfl r
@[simp] theorem State.reg_sampleLines (s : State) (r : Reg) : s.sampleLines.2.reg r = s.reg r :=
  State.reg_of_regs_eq (by simp) r

theorem State.nextPc_of_pc_eq {s t : State} (h : t.pc = s.pc) : t.nextPc = s.nextPc := by
  simp only [State.nextPc, h]

@[simp] theorem State.val_nextPc (s : State) : s.nextPc.val = wrap 27 (s.pc.val + 1) := val_word _

/-! ### The ends of instructions -/

theorem regHolds_word {t : State} {rd : Reg} {n : Int} {v : Word}
    (h : t.reg rd = if rd = 0 then zeroWord else v) (hv : v.val = n) : RegHolds t rd n := by
  unfold RegHolds
  rw [h]
  split <;> simp [hv]

theorem regTrits_word {t : State} {rd : Reg} {f : Nat → Trit} {v : Word}
    (h : t.reg rd = if rd = 0 then zeroWord else v) (hv : ∀ i, i < 27 → v.get i = f i) : RegTrits t rd f := by
  intro i hi
  rw [h]
  split <;> simp [hv i hi]

/-- What `regWrite` leaves: `rd` holds the word, everything else but pc is as before. -/
theorem State.regWrite_spec (s : State) (rd : Reg) (v : Word) :
    (s.regWrite rd v).reg rd = (if rd = 0 then zeroWord else v) ∧
      FrameReg s (s.regWrite rd v) rd ∧ Advances s (s.regWrite rd v) := by
  refine ⟨?_, ⟨?_, ?_, ?_⟩, ?_⟩
  · simp [State.regWrite, State.reg_setReg]
  · simp only [State.regWrite, State.advance]; unfold State.setReg; split <;> rfl
  · intro r hr; simp [State.regWrite, State.reg_setReg, hr]
  · intro a; simp [State.regWrite]
  · simp [Advances, State.regWrite]

theorem State.wroteReg_regWrite (s : State) (rd : Reg) {v : Word} {n : Int} (h : v.val = n) :
    WroteReg s (s.regWrite rd v) rd n :=
  let hs := s.regWrite_spec rd v
  ⟨regHolds_word hs.1 h, hs.2.1, hs.2.2⟩

/-- What `aluWrite` leaves. -/
theorem State.aluWrite_spec (s : State) (rd : Reg) (v : Word) (c : Trit) :
    (s.aluWrite rd v c).reg rd = (if rd = 0 then zeroWord else v) ∧
      (s.aluWrite rd v c).flagSign = sign v.val ∧ (s.aluWrite rd v c).flagCarry = c ∧
      FrameRegFlags s (s.aluWrite rd v c) rd ∧ Advances s (s.aluWrite rd v c) := by
  refine ⟨?_, ?_, ?_, ⟨?_, ?_, ?_⟩, ?_⟩
  · simp [State.aluWrite, State.reg_setReg]
  · simp [State.aluWrite]
  · simp [State.aluWrite]
  · simp only [State.aluWrite, State.advance, State.setFlags]; unfold State.setReg; split <;> rfl
  · intro r hr; simp [State.aluWrite, State.reg_setReg, hr]
  · intro a; simp [State.aluWrite]
  · simp [Advances, State.aluWrite, State.nextPc_of_pc_eq (s := s)]

theorem State.wroteAlu_aluWrite (s : State) (rd : Reg) {v : Word} {c : Trit} {n k : Int} (hv : v.val = n)
    (hc : c.val = k) : WroteAlu s (s.aluWrite rd v c) rd n k :=
  let hs := s.aluWrite_spec rd v c
  ⟨regHolds_word hs.1 hv, hv ▸ hs.2.1, by rw [hs.2.2.1, hc], hs.2.2.2.1, hs.2.2.2.2⟩

theorem State.wroteAluTrits_aluWrite (s : State) (rd : Reg) {v : Word} {f : Nat → Trit}
    (hv : ∀ i, i < 27 → v.get i = f i) : WroteAluTrits s (s.aluWrite rd v .Z) rd f :=
  let hs := s.aluWrite_spec rd v .Z
  ⟨regTrits_word hs.1 hv, by rw [hs.2.1]; exact congrArg sign (sumTrits_congr hv), hs.2.2.1, hs.2.2.2.1, hs.2.2.2.2⟩

/-- What `vregWrite` leaves. -/
theorem State.wroteLanes_vregWrite (s : State) (vd : VReg) {v : Word} {f : Nat → Trit}
    (hv : ∀ i, i < 27 → v.get i = f i) : WroteLanes s (s.vregWrite vd v) vd f := by
  refine ⟨?_, ⟨?_, ?_, ?_⟩, ?_⟩
  · intro i hi
    have : (s.vregWrite vd v).vreg vd = v := by
      simp [State.vregWrite, State.advance, State.vreg]
    rw [this, hv i hi]
  · simp only [State.vregWrite, State.advance, State.setVreg]
  · intro r hr
    have := s.vreg_setVreg vd r v
    simpa [State.vregWrite, State.advance, State.vreg, hr] using this
  · intro a; simp [State.vregWrite]
  · simp [Advances, State.vregWrite]

/-- What `compareWrite` leaves. -/
theorem State.compareWrite_spec (s : State) (d : Int) :
    (s.compareWrite d).flagSign = sign d ∧ (s.compareWrite d).flagCarry = carryTrit d ∧
      FrameFlags s (s.compareWrite d) ∧ Advances s (s.compareWrite d) := by
  refine ⟨by simp [State.compareWrite], by simp [State.compareWrite], ⟨?_, ?_⟩, ?_⟩
  · simp only [State.compareWrite, State.advance, State.setFlags]
  · intro a; simp [State.compareWrite]
  · simp [Advances, State.compareWrite]

/-- What `jump` leaves. -/
theorem State.wentTo_jump (s : State) {a : Word} {target : Int} (h : a.val = wrap 27 target) :
    WentTo s (s.jump a) target := ⟨h, rfl, fun _ => rfl⟩

theorem State.framePc_advance (s : State) : FramePc s s.advance :=
  ⟨by simp only [State.advance], fun a => by simp⟩

/-- What `branchIf` leaves. -/
theorem State.wentTo_branchIf (s : State) (taken : Bool) (off : Int) :
    WentTo s (s.branchIf taken off) (if taken then s.pc.val + off else s.pc.val + 1) := by
  unfold State.branchIf
  cases taken
  · exact ⟨by simp, s.framePc_advance⟩
  · exact s.wentTo_jump (val_word _)

/-! ### Memory accesses -/

/-- An access goes through exactly where the platform has memory there and the MPU allows it. -/
theorem State.checkAccess_ok {s : State} {a : Word} {ty : Access} :
    s.checkAccess a ty = .ok () ↔ s.kindAt a.val = some .memory ∧ s.mpuCheck a.val ty = .allow := by
  unfold State.checkAccess
  cases hk : s.kindAt a.val with
  | none => simp
  | some kind => cases hm : s.mpuCheck a.val ty <;> cases kind <;> simp

theorem State.checkAccess_missing {s : State} {a : Word} {ty : Access} (h : s.kindAt a.val = none) :
    s.checkAccess a ty = .error (.exc excFault a) := by
  simp [State.checkAccess, h]

theorem State.checkAccess_denied {s : State} {a : Word} {ty : Access} (h : s.kindAt a.val ≠ none)
    (hm : s.mpuCheck a.val ty = .deny) : s.checkAccess a ty = .error (.exc (permCause ty) a) := by
  unfold State.checkAccess
  cases hk : s.kindAt a.val with
  | none => exact absurd hk h
  | some kind => simp [hm]

theorem State.readMem_eq {s : State} {a : Word} (h : s.kindAt a.val = some .memory)
    (hm : s.mpuCheck a.val .read = .allow) : s.readMem a = .ok (s.mem.read a.val) := by
  simp [State.readMem, State.checkAccess_ok.2 ⟨h, hm⟩, Except.map]

theorem State.writeMem_eq {s : State} {a v : Word} (h : s.kindAt a.val = some .memory)
    (hm : s.mpuCheck a.val .write = .allow) :
    s.writeMem a v = .ok { s with mem := s.mem.write a.val v } := by
  simp [State.writeMem, State.checkAccess_ok.2 ⟨h, hm⟩, Except.map]

theorem State.fetch_eq {s : State} (h : s.kindAt s.pc.val = some .memory)
    (hm : s.mpuCheck s.pc.val .fetch = .allow) : s.fetch = .ok (s.mem.read s.pc.val) := by
  simp [State.fetch, State.checkAccess_ok.2 ⟨h, hm⟩, Except.map]

/-- A store that goes through changes one address of memory and nothing else. -/
theorem State.writeMem_ok {s t : State} {a v : Word} (h : s.writeMem a v = .ok t) :
    t = { s with mem := s.mem.write a.val v } := by
  unfold State.writeMem at h
  cases hc : s.checkAccess a .write with
  | error e => simp [hc, Except.map] at h
  | ok _ => simpa [hc, Except.map] using h.symm

/-! ### Exceptions -/

@[simp] theorem finish_ok (s t : State) : finish s (.ok t) = .next t := rfl
@[simp] theorem finish_exc (s : State) (c : Int) (v : Word) :
    finish s (.error (.exc c v)) = .next (s.trap c v s.pc) := rfl
@[simp] theorem finish_undefined (s : State) (f : Fault) : finish s (.error (.undefined f)) = .fault f := rfl
@[simp] theorem finish_refuse (s : State) (r : Refusal) : finish s (.error (.refuse r)) = .refused r := rfl

/-- Where an instruction ends in a next state, its body ended normally or raised an exception. -/
theorem finish_next {s t : State} {x : Except Stop State} (h : finish s x = .next t) :
    x = .ok t ∨ ∃ c v, x = .error (.exc c v) ∧ t = s.trap c v s.pc := by
  match x, h with
  | .ok u, h => exact .inl (by simpa using h)
  | .error (.exc c v), h => exact .inr ⟨c, v, rfl, by simpa using h.symm⟩
  | .error (.undefined f), h => simp at h
  | .error (.refuse r), h => simp at h

theorem State.trap_of_depth_Z {s : State} (h : s.depth = .Z) (c : Int) (v e : Word) :
    s.trap c v e = s.enterMain c v e := by
  simp [State.trap, h]

theorem State.trap_of_depth_P {s : State} (h : s.depth = .P) (c : Int) (v e : Word) :
    s.trap c v e = s.enterNested c v e := by
  simp [State.trap, h]

theorem State.trap_of_depth_N {s : State} (h : s.depth = .N) (c : Int) (v e : Word) :
    s.trap c v e = s.machineCheckReset := by
  simp [State.trap, h]

/-- An entry takes one of the three cases. -/
theorem State.trap_cases (s : State) (c : Int) (v e : Word) :
    (s.depth = .Z ∧ s.trap c v e = s.enterMain c v e) ∨ (s.depth = .P ∧ s.trap c v e = s.enterNested c v e) ∨
      (s.depth = .N ∧ s.trap c v e = s.machineCheckReset) := by
  unfold State.trap
  cases s.depth <;> simp

@[simp] theorem State.trap_regs (s : State) (c : Int) (v e : Word) : (s.trap c v e).regs = s.regs := by
  rcases s.trap_cases c v e with ⟨-, h⟩ | ⟨-, h⟩ | ⟨-, h⟩ <;> simp [h]
@[simp] theorem State.trap_vregs (s : State) (c : Int) (v e : Word) : (s.trap c v e).vregs = s.vregs := by
  rcases s.trap_cases c v e with ⟨-, h⟩ | ⟨-, h⟩ | ⟨-, h⟩ <;> simp [h]
@[simp] theorem State.trap_mem (s : State) (c : Int) (v e : Word) : (s.trap c v e).mem = s.mem := by
  rcases s.trap_cases c v e with ⟨-, h⟩ | ⟨-, h⟩ | ⟨-, h⟩ <;> simp [h]
@[simp] theorem State.trap_memMap (s : State) (c : Int) (v e : Word) : (s.trap c v e).memMap = s.memMap := by
  rcases s.trap_cases c v e with ⟨-, h⟩ | ⟨-, h⟩ | ⟨-, h⟩ <;> simp [h]
@[simp] theorem State.trap_irqFeed (s : State) (c : Int) (v e : Word) : (s.trap c v e).irqFeed = s.irqFeed := by
  rcases s.trap_cases c v e with ⟨-, h⟩ | ⟨-, h⟩ | ⟨-, h⟩ <;> simp [h]
@[simp] theorem State.trap_freeCount (s : State) (c : Int) (v e : Word) : (s.trap c v e).freeCount = s.freeCount := by
  rcases s.trap_cases c v e with ⟨-, h⟩ | ⟨-, h⟩ | ⟨-, h⟩ <;> simp [h]

/-- The trits of the STATUS after an entry. -/
theorem get_enterStatus (v : Word) (d : Trit) (i : Nat) (hi : i < 27) :
    (enterStatus v d).get i = if i = 3 then d else if i = 1 then .N else if i = 0 then .N else v.get i := by
  simp [enterStatus, put, Trits.get_ofFn_lt, hi]

theorem allZ_iff {w : Nat} (x : Trits w) (lo len : Nat) :
    allZ x lo len = true ↔ ∀ i, lo ≤ i → i < lo + len → x.get i = .Z := by
  simp only [allZ, List.all_eq_true, List.mem_range, beq_iff_eq]
  constructor
  · intro h i h1 h2
    have := h (i - lo) (by omega)
    rwa [show lo + (i - lo) = i by omega] at this
  · intro h k hk
    exact h _ (by omega) (by omega)

/-- A legal STATUS, trit by trit (R36). -/
theorem statusLegal_iff (v : Word) :
    statusLegal v = true ↔ v.get 0 ≠ .Z ∧ ∀ i, 4 ≤ i → i < 27 → v.get i = .Z := by
  rw [statusLegal, Bool.and_eq_true, allZ_iff]
  simp

theorem statusRefusal_none (v : Word) : statusRefusal v = none ↔ statusLegal v = true := by
  unfold statusRefusal statusLegal
  by_cases h0 : v.get 0 = .Z <;> by_cases h1 : allZ v 4 23 = true <;> simp [h0, h1]

theorem statusLegal_enterStatus {v : Word} (h : statusLegal v = true) (d : Trit) :
    statusLegal (enterStatus v d) = true := by
  rw [statusLegal_iff] at h ⊢
  refine ⟨by simp [get_enterStatus], fun i h1 h2 => ?_⟩
  rw [get_enterStatus _ _ _ h2, if_neg (by omega), if_neg (by omega), if_neg (by omega)]
  exact h.2 i h1 h2

theorem statusLegal_reset : statusLegal State.reset.status = true := by decide

/-- A return restores the pair exactly where the saved STATUS is legal. -/
theorem State.restore_ok {s t : State} {p v : Word} :
    s.restore p v = .ok t ↔ statusLegal v = true ∧ t = { s with pc := p, status := v } := by
  unfold State.restore
  rw [← statusRefusal_none]
  cases statusRefusal v <;> simp [eq_comm]

/-- A return from exception that goes through restored one of the two banks. -/
theorem State.exceptionReturn_ok {s t : State} (h : s.exceptionReturn = .ok t) :
    (s.depth = .P ∧ statusLegal s.esave = true ∧ t = { s with pc := s.epc, status := s.esave }) ∨
      (s.depth = .N ∧ statusLegal s.esave2 = true ∧ t = { s with pc := s.epc2, status := s.esave2 }) := by
  unfold State.exceptionReturn at h
  cases hd : s.depth <;> simp only [hd] at h
  · exact .inr ⟨rfl, State.restore_ok.1 h⟩
  · simp at h
  · exact .inl ⟨rfl, State.restore_ok.1 h⟩

/-! ### CSR access -/

theorem State.csrCheck_ok {s : State} {c : Csr} {raw : Word} (h : s.mode ≠ .P ∨ kernelOnly c = false) :
    s.csrCheck c raw = .ok () := by
  unfold State.csrCheck
  rw [if_neg]
  rintro ⟨h1, h2⟩
  rcases h with h | h
  · exact h h1
  · simp [h] at h2

theorem State.csrCheck_user {s : State} {c : Csr} {raw : Word} (h : s.mode = .P) (hk : kernelOnly c = true) :
    s.csrCheck c raw = .error (.exc excIllegal raw) := by
  simp [State.csrCheck, h, hk]

/-- A CSR read leaves the state, but for the sample that a read of IPENDING takes. -/
theorem State.csrRead_state (s : State) (c : Csr) :
    (s.csrRead c).2 = s ∨ (c = .ipending ∧ (s.csrRead c).2 = s.sampleLines.2) := by
  cases c <;> simp [State.csrRead]

theorem State.csrRead_state_of_ne (s : State) {c : Csr} (h : c ≠ .ipending) : (s.csrRead c).2 = s := by
  rcases s.csrRead_state c with h1 | ⟨h1, -⟩
  · exact h1
  · exact absurd h1 h

/-- Where a CSR write ends normally, the value was acceptable. -/
theorem State.csrWrite_accepts {s t : State} {c : Csr} {v raw : Word} (h : s.csrWrite c v raw = .ok t) :
    csrAccepts c v = true := by
  cases c <;> simp only [csrAccepts] <;> simp only [State.csrWrite] at h
  · simp at h
  · rw [← statusRefusal_none]
    cases hs : statusRefusal v <;> simp_all
  · split at h <;> simp_all
  · split at h <;> simp_all

/-- Where the value is acceptable, a CSR write ends normally. -/
theorem State.csrWrite_ok_of_accepts {s : State} {c : Csr} {v raw : Word} (h : csrAccepts c v = true) :
    ∃ t, s.csrWrite c v raw = .ok t := by
  cases c <;> simp only [csrAccepts] at h <;> simp only [State.csrWrite]
  case pc => simp at h
  case status => rw [(statusRefusal_none v).2 h]; exact ⟨_, rfl⟩
  case mpuSelect => rw [if_pos h]; exact ⟨_, rfl⟩
  case mpuCfg => rw [if_pos h]; exact ⟨_, rfl⟩
  all_goals exact ⟨_, rfl⟩

/-- A CSR write changes no register, no memory, and nothing of the model's own. -/
theorem State.csrWrite_frame {s t : State} {c : Csr} {v raw : Word} (h : s.csrWrite c v raw = .ok t) :
    t.regs = s.regs ∧ t.vregs = s.vregs ∧ t.pc = s.pc ∧ t.mem = s.mem ∧ t.memMap = s.memMap ∧
      t.irqFeed = s.irqFeed ∧ t.freeCount = s.freeCount ∧ t.halted = s.halted := by
  have key : ∀ {u : State}, s.csrWrite c v raw = .ok u → u.regs = s.regs ∧ u.vregs = s.vregs ∧ u.pc = s.pc ∧
      u.mem = s.mem ∧ u.memMap = s.memMap ∧ u.irqFeed = s.irqFeed ∧ u.freeCount = s.freeCount ∧
      u.halted = s.halted := by
    intro u hu
    cases c <;> simp only [State.csrWrite] at hu
    case pc => simp at hu
    case status => cases hs : statusRefusal v <;> simp [hs] at hu; subst hu; simp
    case mpuSelect => split at hu <;> simp at hu; subst hu; simp
    case mpuCfg => split at hu <;> simp at hu; subst hu; simp
    all_goals (injection hu with hu; subst hu; simp)
  exact key h

/-! ### Interrupts -/

/-- No line is picked exactly where none is eligible. -/
theorem pickLine_none {el : Nat → Bool} {pr : Nat → Int} {n : Nat} :
    pickLine el pr n = none ↔ ∀ j, j < n → el j = false := by
  have some_eligible : ∀ {m q : Nat}, pickLine el pr m = some q → q < m ∧ el q = true := by
    intro m
    induction m with
    | zero => intro q h; simp [pickLine] at h
    | succ m ih =>
      intro q h
      unfold pickLine at h
      cases hp : pickLine el pr m <;> simp only [hp] at h <;> split at h <;> simp_all
      · omega
  induction n with
  | zero => simp [pickLine]
  | succ m ih =>
    unfold pickLine
    cases hq : pickLine el pr m with
    | none =>
      have := ih.1 hq
      constructor
      · intro h j hj
        rcases Nat.lt_succ_iff_lt_or_eq.1 hj with h1 | h1
        · exact this j h1
        · subst h1; by_contra hc; simp [Bool.not_eq_false _ ▸ hc] at h
      · intro h; simp [h m (by omega)]
    | some q =>
      constructor
      · intro h; simp only at h; split at h <;> simp at h
      · intro h
        have := some_eligible hq
        simp [h q (by omega)] at this

/-- The line picked is eligible, no eligible line has a greater priority, and no lower line has the same one. -/
theorem pickLine_some {el : Nat → Bool} {pr : Nat → Int} {n k : Nat} (h : pickLine el pr n = some k) :
    k < n ∧ el k = true ∧ ∀ j, j < n → el j = true → pr j < pr k ∨ (pr j = pr k ∧ k ≤ j) := by
  induction n generalizing k with
  | zero => simp [pickLine] at h
  | succ n ih =>
    unfold pickLine at h
    cases hp : pickLine el pr n with
    | none =>
      simp only [hp] at h
      split at h
      · rename_i he
        obtain rfl : n = k := by simpa using h
        refine ⟨by omega, he, fun j hj hej => ?_⟩
        rcases Nat.lt_succ_iff_lt_or_eq.1 hj with h1 | h1
        · simp [pickLine_none.1 hp j h1] at hej
        · subst h1; exact .inr ⟨rfl, le_refl _⟩
      · simp at h
    | some q =>
      obtain ⟨h1, h2, h3⟩ := ih hp
      simp only [hp] at h
      split at h
      · rename_i he
        simp only [Bool.and_eq_true, decide_eq_true_eq] at he
        obtain rfl : n = k := by simpa using h
        refine ⟨by omega, he.1, fun j hj hej => ?_⟩
        rcases Nat.lt_succ_iff_lt_or_eq.1 hj with h4 | h4
        · left; rcases h3 j h4 hej with h5 | ⟨h5, -⟩ <;> omega
        · subst h4; exact .inr ⟨rfl, le_refl _⟩
      · rename_i he
        obtain rfl : q = k := by simpa using h
        refine ⟨by omega, h2, fun j hj hej => ?_⟩
        rcases Nat.lt_succ_iff_lt_or_eq.1 hj with h4 | h4
        · exact h3 j h4 hej
        · subst h4
          simp only [hej, Bool.true_and, decide_eq_true_eq] at he
          rcases lt_or_eq_of_le (not_lt.1 he) with h5 | h5
          · exact .inl h5
          · exact .inr ⟨h5, by omega⟩

end Sys2Proof.Machine
end

