-- ==== Sys2Proof/Laws/Operands.lean ====
section
/-! SUPPORT. The laws of the operand forms: which trit each reordering reads, and the integers they compute. -/

namespace Sys2Proof.Machine

/-! ### Trits read -/

theorem get_mapTrits (f : Trit → Trit) (x : Word) {i : Nat} (h : i < 27) : (mapTrits f x).get i = f (x.get i) :=
  Trits.get_ofFn_lt _ h

theorem get_zipTrits (f : Trit → Trit → Trit) (x y : Word) {i : Nat} (h : i < 27) :
    (zipTrits f x y).get i = f (x.get i) (y.get i) := Trits.get_ofFn_lt _ h

theorem get_put {w : Nat} (x : Trits w) (k : Nat) (t : Trit) {i : Nat} (h : i < w) :
    (put x k t).get i = if i = k then t else x.get i := Trits.get_ofFn_lt _ h

theorem get_shiftTrits (x : Word) (k : Int) {i : Nat} (h : i < 27) :
    (shiftTrits x k).get i = if 0 ≤ (i : Int) - k ∧ (i : Int) - k ≤ 26 then x.get ((i : Int) - k).toNat else .Z :=
  Trits.get_ofFn_lt _ h

theorem get_rotateTrits (x : Word) (n : Int) {i : Nat} (h : i < 27) :
    (rotateTrits x n).get i = x.get (((i : Int) - n) % 27).toNat := Trits.get_ofFn_lt _ h

theorem get_reverseTrits (x : Word) {i : Nat} (h : i < 27) : (reverseTrits x).get i = x.get (26 - i) :=
  Trits.get_ofFn_lt _ h

/-! ### Values -/

@[simp] theorem val_tritNeg (t : Trit) : (tritNeg t).val = -t.val := by cases t <;> rfl

theorem sumTrits_neg (f : Nat → Trit) (n : Nat) : sumTrits (fun i => tritNeg (f i)) n = -sumTrits f n := by
  induction n with
  | zero => rfl
  | succ n ih => simp only [sumTrits, ih, val_tritNeg]; ring

/-- Inverting every trit negates the value (R160). -/
@[simp] theorem val_mapTrits_tritNeg (x : Word) : (mapTrits tritNeg x).val = -x.val := by
  rw [mapTrits, val_ofFn, sumTrits_neg]; rfl

theorem sign_of_val (t : Trit) : sign t.val = t := by cases t <;> rfl

@[simp] theorem val_tritWord (t : Trit) : (tritWord t).val = t.val := by cases t <;> decide

theorem val_sign (n : Int) : (sign n).val = n.sign := by
  unfold sign
  split
  · simp [Int.sign_eq_neg_one_of_neg, *]
  · split
    · simp [*]
    · simp [Int.sign_eq_one_of_pos (show 0 < n by omega)]

/-- One trit replaced changes the value by its difference at its weight (R292). -/
theorem val_put {w : Nat} (x : Trits w) {k : Nat} (t : Trit) (h : k < w) :
    (put x k t).val = x.val + (t.val - (x.get k).val) * pow3 k := by
  rw [put, val_ofFn]
  unfold Trits.val
  have key : ∀ n : Nat, sumTrits (fun i => if i = k then t else x.get i) n =
      sumTrits x.get n + if k < n then (t.val - (x.get k).val) * pow3 k else 0 := by
    intro n
    induction n with
    | zero => simp [sumTrits]
    | succ n ih =>
      simp only [sumTrits, ih]
      by_cases h1 : n = k
      · subst h1; simp; ring
      · by_cases h2 : k < n
        · simp [h1, h2, show k < n + 1 by omega]; ring
        · simp [h1, h2, show ¬ k < n + 1 by omega]
  rw [key w, if_pos h]

/-! ### Carry -/

theorem carry_spec (n : Int) : n = wrap 27 n + 7625597484987 * carry 27 n := by
  have := wrap_add_carry 27 n
  have h : pow3 27 = 7625597484987 := by decide
  rw [h] at this
  linarith

theorem wrap27_bounds (n : Int) : -H ≤ wrap 27 n ∧ wrap 27 n ≤ H := by
  have := wrap_bounds 27 n
  rwa [half3_27] at this

/-- A sum that lies within one word of the range has a carry of one trit (R141). -/
theorem val_carryTrit {n : Int} (h1 : -11438396227480 ≤ n) (h2 : n ≤ 11438396227480) :
    (carryTrit n).val = carry 27 n := by
  have hs := carry_spec n
  have hb := wrap27_bounds n
  unfold H at hb
  have : carry 27 n = -1 ∨ carry 27 n = 0 ∨ carry 27 n = 1 := by omega
  unfold carryTrit
  rcases this with h | h | h <;> rw [h] <;> rfl

/-! ### Folds over the lanes -/

theorem val_tritMin (a b : Trit) : (tritMin a b).val = min a.val b.val := by cases a <;> cases b <;> rfl

theorem val_tritMax (a b : Trit) : (tritMax a b).val = max a.val b.val := by cases a <;> cases b <;> rfl

theorem foldl_min_spec (f : Nat → Trit) (n : Nat) :
    (∀ i, i < n + 1 → ((List.range (n + 1)).foldl (fun acc i => tritMin acc (f i)) .P).val ≤ (f i).val) ∧
      ∃ i, i < n + 1 ∧ f i = (List.range (n + 1)).foldl (fun acc i => tritMin acc (f i)) .P := by
  induction n with
  | zero =>
    refine ⟨fun i hi => ?_, 0, by omega, ?_⟩
    · obtain rfl : i = 0 := by omega
      cases h : f 0 <;> simp [tritMin, h]
    · cases h : f 0 <;> simp [tritMin, h]
  | succ n ih =>
    rw [List.range_succ, List.foldl_append]
    obtain ⟨h1, j, hj, h2⟩ := ih
    generalize (List.range (n + 1)).foldl (fun acc i => tritMin acc (f i)) .P = m at h1 h2 ⊢
    simp only [List.foldl_cons, List.foldl_nil]
    refine ⟨fun i hi => ?_, ?_⟩
    · rw [val_tritMin]
      rcases Nat.lt_succ_iff_lt_or_eq.1 hi with h | h
      · exact le_trans (min_le_left _ _) (h1 i h)
      · subst h; exact min_le_right _ _
    · rcases le_total m.val (f (n + 1)).val with h | h
      · exact ⟨j, by omega, by rw [h2]; exact Trit.val_injective (by rw [val_tritMin, min_eq_left h])⟩
      · exact ⟨n + 1, by omega, Trit.val_injective (by rw [val_tritMin, min_eq_right h])⟩

theorem foldl_max_spec (f : Nat → Trit) (n : Nat) :
    (∀ i, i < n + 1 → (f i).val ≤ ((List.range (n + 1)).foldl (fun acc i => tritMax acc (f i)) .N).val) ∧
      ∃ i, i < n + 1 ∧ f i = (List.range (n + 1)).foldl (fun acc i => tritMax acc (f i)) .N := by
  induction n with
  | zero =>
    refine ⟨fun i hi => ?_, 0, by omega, ?_⟩
    · obtain rfl : i = 0 := by omega
      cases h : f 0 <;> simp [tritMax, h]
    · cases h : f 0 <;> simp [tritMax, h]
  | succ n ih =>
    rw [List.range_succ, List.foldl_append]
    obtain ⟨h1, j, hj, h2⟩ := ih
    generalize (List.range (n + 1)).foldl (fun acc i => tritMax acc (f i)) .N = m at h1 h2 ⊢
    simp only [List.foldl_cons, List.foldl_nil]
    refine ⟨fun i hi => ?_, ?_⟩
    · rw [val_tritMax]
      rcases Nat.lt_succ_iff_lt_or_eq.1 hi with h | h
      · exact le_trans (h1 i h) (le_max_left _ _)
      · subst h; exact le_max_right _ _
    · rcases le_total m.val (f (n + 1)).val with h | h
      · exact ⟨n + 1, by omega, Trit.val_injective (by rw [val_tritMax, max_eq_right h])⟩
      · exact ⟨j, by omega, by rw [h2]; exact Trit.val_injective (by rw [val_tritMax, max_eq_left h])⟩

/-- `minTrit` is the least trit and some trit of the word (R296). -/
theorem minTrit_spec (x : Word) :
    (∀ i, i < 27 → (minTrit x).val ≤ (x.get i).val) ∧ ∃ i, i < 27 ∧ x.get i = minTrit x :=
  foldl_min_spec x.get 26

/-- `maxTrit` is the greatest trit and some trit of the word (R297). -/
theorem maxTrit_spec (x : Word) :
    (∀ i, i < 27 → (x.get i).val ≤ (maxTrit x).val) ∧ ∃ i, i < 27 ∧ x.get i = maxTrit x :=
  foldl_max_spec x.get 26

theorem hasTrit_iff (x : Word) (t : Trit) : hasTrit x t = true ↔ ∃ i, i < 27 ∧ x.get i = t := by
  simp [hasTrit, List.any_eq_true]

end Sys2Proof.Machine
end

