-- ==== Sys2Proof/Laws/Exec.lean ====
section
/-! SUPPORT. What an instruction can do: one lemma per constructor, and the one over all of them that invariants of
the step rest on. -/

namespace Sys2Proof.Machine

/-- Everything but the two register banks, FLAGS, pc and the count of open values is as before, the stored r0 included. -/
structure RegistersOnly (s t : State) : Prop where
  core : t = { s with
    regs := t.regs, vregs := t.vregs, flagSign := t.flagSign, flagCarry := t.flagCarry, pc := t.pc
    freeCount := t.freeCount }
  zero : t.regs[0] = s.regs[0]

theorem zero_setReg (s : State) (r : Reg) (v : Word) : (s.setReg r v).regs[0] = s.regs[0] := by
  unfold State.setReg
  by_cases h : r = 0
  · simp [h]
  · have : r.val ≠ 0 := fun h' => h (Fin.ext h')
    rw [if_neg h]
    exact Vector.getElem_set_ne (i := r.val) r.isLt (by decide) this

theorem registersOnly_setReg (s : State) (r : Reg) (v : Word) : RegistersOnly s (s.setReg r v) :=
  ⟨by unfold State.setReg; split <;> rfl, zero_setReg s r v⟩
theorem registersOnly_setVreg (s : State) (r : Reg) (v : Word) : RegistersOnly s (s.setVreg r v) := ⟨rfl, rfl⟩
theorem registersOnly_setFlags (s : State) (a b : Trit) : RegistersOnly s (s.setFlags a b) := ⟨rfl, rfl⟩
theorem registersOnly_advance (s : State) : RegistersOnly s s.advance := ⟨by simp only [State.advance], by simp only [State.advance]⟩
theorem registersOnly_jump (s : State) (a : Word) : RegistersOnly s (s.jump a) := ⟨rfl, rfl⟩
theorem registersOnly_drawFree (s : State) : RegistersOnly s s.drawFree.2 := ⟨rfl, rfl⟩
theorem RegistersOnly.trans {s t u : State} (h : RegistersOnly s t) (k : RegistersOnly t u) : RegistersOnly s u := by
  refine ⟨?_, k.zero.trans h.zero⟩
  have h1 := h.core; have h2 := k.core
  rw [h1] at h2; exact h2
theorem registersOnly_regWrite (s : State) (r : Reg) (v : Word) : RegistersOnly s (s.regWrite r v) := (registersOnly_setReg s r v).trans (registersOnly_advance _)
theorem registersOnly_vregWrite (s : State) (r : Reg) (v : Word) : RegistersOnly s (s.vregWrite r v) := (registersOnly_setVreg s r v).trans (registersOnly_advance _)
theorem registersOnly_aluWrite (s : State) (r : Reg) (v : Word) (c : Trit) :
    RegistersOnly s (s.aluWrite r v c) :=
  (registersOnly_setReg s r v).trans ((registersOnly_setFlags _ _ _).trans (registersOnly_advance _))
theorem registersOnly_tfpWrite (s : State) (r : Reg) (v : Word) (c : Trit × Trit) :
    RegistersOnly s (s.tfpWrite r v c) :=
  (registersOnly_setReg s r v).trans ((registersOnly_setFlags _ _ _).trans (registersOnly_advance _))
theorem registersOnly_compareWrite (s : State) (d : Int) : RegistersOnly s (s.compareWrite d) := (registersOnly_setFlags s _ _).trans (registersOnly_advance _)
theorem registersOnly_branchIf (s : State) (b : Bool) (o : Int) : RegistersOnly s (s.branchIf b o) := by
  unfold State.branchIf; split
  · exact registersOnly_jump _ _
  · exact registersOnly_advance _
theorem registersOnly_setTrit (s : State) (a b c : Reg) (t : Trit) : RegistersOnly s (s.setTrit a b c t) := by
  unfold State.setTrit; split
  · exact registersOnly_regWrite _ _ _
  · exact (registersOnly_drawFree s).trans (registersOnly_regWrite _ _ _)
theorem registersOnly_tfpBinary (s : State) (o : TfpOp) (f : Tfp → Tfp → Word) (a b c : Reg) :
    RegistersOnly s (s.tfpBinary o f a b c) := by
  unfold State.tfpBinary; dsimp only; split
  · exact registersOnly_tfpWrite _ _ _ _
  · exact (registersOnly_drawFree s).trans (registersOnly_tfpWrite _ _ _ _)
theorem registersOnly_tfpToInt (s : State) (o : TfpOp) (f : Rat → Int) (a b : Reg) :
    RegistersOnly s (s.tfpToInt o f a b) := by
  unfold State.tfpToInt; dsimp only; split
  · split
    · exact registersOnly_regWrite _ _ _
    · exact (registersOnly_drawFree s).trans (registersOnly_regWrite _ _ _)
  · exact (registersOnly_drawFree s).trans (registersOnly_regWrite _ _ _)

theorem next_inj {s t : State} (h : (.next s : Result) = .next t) : t = s := by injection h with h; exact h.symm

/-- What an instruction that answers a next state did to it. -/
inductive Effect (s : State) : Instr → State → Prop
  /-- It took an exception. -/
  | trap (i : Instr) (c : Int) (v : Word) : Effect s i (s.trap c v s.pc)
  /-- It wrote registers, FLAGS and pc at most. -/
  | quiet {i : Instr} {t : State} (h : RegistersOnly s t) : Effect s i t
  /-- It stored one word. -/
  | store (rsrc rs1 : Reg) (imm : Int) (v p : Word) :
    Effect s (.store rsrc rs1 imm) { s with mem := s.mem.write (s.effectiveAddress rs1 imm).val v, pc := p }
  /-- It read a CSR it may name. -/
  | csrr (rd : Reg) (c : Csr) (lo : Trits 3) (hi : Trits 14) (hc : s.csrCheck c (encode (.csrr rd c lo hi)) = .ok ()) :
    Effect s (.csrr rd c lo hi) ((s.csrRead c).2.regWrite rd (s.csrRead c).1)
  /-- It wrote a CSR it may name. -/
  | csrw (c : Csr) (rs1 : Reg) (lo : Trits 3) (hi : Trits 14) (u : State) (raw : Word)
    (hc : s.csrCheck c raw = .ok ()) (h : s.csrWrite c (s.reg rs1) raw = .ok u) :
    Effect s (.csrw c rs1 lo hi) u.advance
  /-- It exchanged a CSR it may name with a register. -/
  | csrx (rd rs1 : Reg) (c : Csr) (hi : Trits 14) (u : State) (raw : Word)
    (hc : s.csrCheck c raw = .ok ()) (h : (s.csrRead c).2.csrWrite c (s.reg rs1) raw = .ok u) :
    Effect s (.csrx rd rs1 c hi) (u.setReg rd (s.csrRead c).1).advance
  /-- It returned from an exception. -/
  | iret {t : State} (h : s.exceptionReturn = .ok t) : Effect s .iret t
  /-- It halted. -/
  | halt : Effect s .halt { s with halted := true }

theorem effect_store {a b c} {s t : State} (h : exec (.store a b c) s = .next t) : Effect s (.store a b c) t := by
  rcases finish_next h with h | ⟨c, v, -, rfl⟩
  · cases hw : s.writeMem (s.effectiveAddress b c) (s.reg a) with
    | error e => rw [hw] at h; cases h
    | ok u =>
      rw [hw] at h
      obtain rfl : u.advance = t := by injection h
      rw [State.writeMem_ok hw]
      exact .store _ _ _ _ _
  · exact .trap _ _ _

theorem effect_load {a b c} {s t : State} (h : exec (.load a b c) s = .next t) : Effect s (.load a b c) t := by
  rcases finish_next h with h | ⟨c, v, -, rfl⟩
  · cases hw : s.readMem (s.effectiveAddress b c) with
    | error e => rw [hw] at h; cases h
    | ok u =>
      rw [hw] at h
      obtain rfl : s.regWrite a u = t := by injection h
      exact .quiet (registersOnly_regWrite _ _ _)
  · exact .trap _ _ _

theorem effect_csrr {rd c lo hi} {s t : State} (h : exec (.csrr rd c lo hi) s = .next t) : Effect s (.csrr rd c lo hi) t := by
  rcases finish_next h with h | ⟨c, v, -, rfl⟩
  · unfold State.csrLoad at h
    cases hw : s.csrCheck c (encode (.csrr rd c lo hi)) with
    | error e => rw [hw] at h; cases h
    | ok u =>
      rw [hw] at h
      obtain rfl : (s.csrRead c).2.regWrite rd (s.csrRead c).1 = t := by injection h
      exact .csrr _ _ _ _ hw
  · exact .trap _ _ _

theorem effect_csrw {c rs1 lo hi} {s t : State} (h : exec (.csrw c rs1 lo hi) s = .next t) : Effect s (.csrw c rs1 lo hi) t := by
  rcases finish_next h with h | ⟨c, v, -, rfl⟩
  · unfold State.csrStore at h
    cases hw : s.csrCheck c (encode (.csrw c rs1 lo hi)) with
    | error e => rw [hw] at h; cases h
    | ok u =>
      rw [hw] at h
      simp only [Except.bind] at h
      cases hx : s.csrWrite c (s.reg rs1) (encode (.csrw c rs1 lo hi)) with
      | error e => rw [hx] at h; cases h
      | ok u =>
        rw [hx] at h
        obtain rfl : u.advance = t := by injection h
        exact .csrw _ _ _ _ _ _ hw hx
  · exact .trap _ _ _

theorem effect_csrx {rd rs1 c hi} {s t : State} (h : exec (.csrx rd rs1 c hi) s = .next t) : Effect s (.csrx rd rs1 c hi) t := by
  rcases finish_next h with h | ⟨c, v, -, rfl⟩
  · unfold State.csrExchange at h
    cases hw : s.csrCheck c (encode (.csrx rd rs1 c hi)) with
    | error e => rw [hw] at h; cases h
    | ok u =>
      rw [hw] at h
      simp only [Except.bind] at h
      cases hx : (s.csrRead c).2.csrWrite c (s.reg rs1) (encode (.csrx rd rs1 c hi)) with
      | error e => rw [hx] at h; cases h
      | ok u =>
        rw [hx] at h
        obtain rfl : (u.setReg rd (s.csrRead c).1).advance = t := by injection h
        exact .csrx _ _ _ _ _ _ hw hx
  · exact .trap _ _ _

theorem effect_iret {s t : State} (h : exec (.iret) s = .next t) : Effect s (.iret) t := by
  rcases finish_next h with h | ⟨c, v, h, rfl⟩
  · exact .iret h
  · exact .trap _ _ _

theorem effect_halt {s t : State} (h : exec (.halt) s = .next t) : Effect s (.halt) t := by
  cases next_inj h; exact .halt

theorem effect_div {a b c} {s t : State} (h : exec (.div a b c) s = .next t) : Effect s (.div a b c) t := by
  rcases finish_next h with h | ⟨c, v, h, rfl⟩
  · split at h
    · cases h
    · cases h; exact .quiet (registersOnly_aluWrite _ _ _ _)
  · exact .trap _ _ _

theorem effect_mod {a b c} {s t : State} (h : exec (.mod a b c) s = .next t) : Effect s (.mod a b c) t := by
  rcases finish_next h with h | ⟨c, v, h, rfl⟩
  · split at h
    · cases h
    · cases h; exact .quiet (registersOnly_aluWrite _ _ _ _)
  · exact .trap _ _ _

theorem effect_brt3 {a b c} {s t : State} (h : exec (.brt3 a b c) s = .next t) : Effect s (.brt3 a b c) t := by
  have h : execBrt3 a b c s = .next t := h
  unfold execBrt3 at h
  split at h <;> cases next_inj h
  · exact .quiet (registersOnly_advance _)
  · exact .quiet (registersOnly_jump _ _)
  · exact .quiet (registersOnly_jump _ _)

theorem effect_tsel {a b c d} {s t : State} (h : exec (.tsel a b c d) s = .next t) : Effect s (.tsel a b c d) t := by
  have h : execTsel a b c d s = .next t := h
  unfold execTsel at h
  split at h <;> cases next_inj h <;> exact .quiet (registersOnly_regWrite _ _ _)

theorem effect_tget {a b c} {s t : State} (h : exec (.tget a b c) s = .next t) : Effect s (.tget a b c) t := by
  have h : execTget a b c s = .next t := h
  unfold execTget at h
  split at h <;> cases next_inj h
  · exact .quiet (registersOnly_regWrite _ _ _)
  · exact .quiet ((registersOnly_drawFree s).trans (registersOnly_regWrite _ _ _))

theorem effect_fcmp {a b} {s t : State} (h : exec (.fcmp a b) s = .next t) : Effect s (.fcmp a b) t := by
  have h : execFcmp a b s = .next t := h
  unfold execFcmp at h
  dsimp only at h
  split at h <;> cases next_inj h
  · exact .quiet ((registersOnly_setFlags _ _ _).trans (registersOnly_advance _))
  · exact .quiet ((registersOnly_drawFree s).trans ((registersOnly_setFlags _ _ _).trans (registersOnly_advance _)))

theorem effect_vins {a b c d e} {s t : State} (h : exec (.vins a b c d e) s = .next t) : Effect s (.vins a b c d e) t := by
  have h : execVins a b c d e s = .next t := h
  unfold execVins at h
  split at h <;> cases next_inj h
  · exact .trap _ _ _
  · exact .quiet (registersOnly_vregWrite _ _ _)

theorem effect_vext {a b c d e} {s t : State} (h : exec (.vext a b c d e) s = .next t) : Effect s (.vext a b c d e) t := by
  have h : execVext a b c d e s = .next t := h
  unfold execVext at h
  split at h <;> cases next_inj h
  · exact .trap _ _ _
  · exact .quiet (registersOnly_regWrite _ _ _)

theorem effect_call {o} {s t : State} (h : exec (.call o) s = .next t) : Effect s (.call o) t := by
  have h := next_inj (s := (s.setReg 1 s.nextPc).jump (s.branchTarget o)) h
  rw [h]
  exact .quiet (RegistersOnly.trans (registersOnly_setReg s 1 s.nextPc) (registersOnly_jump (s.setReg 1 s.nextPc) (s.branchTarget o)))

theorem effect_vshuf {a b c} {s t : State} (h : exec (.vshuf a b c) s = .next t) : Effect s (.vshuf a b c) t := by
  cases next_inj h; exact .quiet ((registersOnly_drawFree s).trans (registersOnly_vregWrite _ _ _))

theorem effect_jmp {a} {s t : State} (h : exec (.jmp a) s = .next t) : Effect s (.jmp a) t := by
  cases next_inj h; exact .quiet (registersOnly_jump _ _)

theorem effect_jmpa {a b} {s t : State} (h : exec (.jmpa a b) s = .next t) : Effect s (.jmpa a b) t := by
  cases next_inj h; exact .quiet (registersOnly_jump _ _)

theorem effect_ecall {s t : State} (h : exec (.ecall) s = .next t) : Effect s (.ecall) t := by
  cases next_inj h; exact .trap _ _ _

theorem effect_hcall {s t : State} (h : exec (.hcall) s = .next t) : Effect s (.hcall) t := by
  cases next_inj h; exact .trap _ _ _

theorem effect_dbgbrk {s t : State} (h : exec (.dbgbrk) s = .next t) : Effect s (.dbgbrk) t := by
  cases next_inj h; exact .trap _ _ _

theorem effect_illegalMul {w} {s t : State} (h : exec (.illegalMul w) s = .next t) : Effect s (.illegalMul w) t := by
  cases next_inj h; exact .trap _ _ _

theorem effect_illegalVadd {w} {s t : State} (h : exec (.illegalVadd w) s = .next t) : Effect s (.illegalVadd w) t := by
  cases next_inj h; exact .trap _ _ _

theorem effect_illegalVlog {w} {s t : State} (h : exec (.illegalVlog w) s = .next t) : Effect s (.illegalVlog w) t := by
  cases next_inj h; exact .trap _ _ _

theorem effect_illegalVred {w} {s t : State} (h : exec (.illegalVred w) s = .next t) : Effect s (.illegalVred w) t := by
  cases next_inj h; exact .trap _ _ _

theorem effect_illegalVperm {w} {s t : State} (h : exec (.illegalVperm w) s = .next t) : Effect s (.illegalVperm w) t := by
  cases next_inj h; exact .trap _ _ _

theorem effect_illegalVmove {w} {s t : State} (h : exec (.illegalVmove w) s = .next t) : Effect s (.illegalVmove w) t := by
  cases next_inj h; exact .trap _ _ _

theorem effect_reservedOpcode {w} {s t : State} (h : exec (.reservedOpcode w) s = .next t) : Effect s (.reservedOpcode w) t := by
  cases next_inj h; exact .trap _ _ _

theorem effect_customOpcode {w} {s t : State} (h : exec (.customOpcode w) s = .next t) : Effect s (.customOpcode w) t := by
  cases next_inj h; exact .trap _ _ _

theorem effect_nop {s t : State} (h : exec (.nop) s = .next t) : Effect s (.nop) t := by
  cases next_inj h; exact .quiet (registersOnly_advance _)

theorem effect_tsetn {a b c} {s t : State} (h : exec (.tsetn a b c) s = .next t) : Effect s (.tsetn a b c) t := by
  cases next_inj h; exact .quiet (registersOnly_setTrit _ _ _ _ _)

theorem effect_tsetz {a b c} {s t : State} (h : exec (.tsetz a b c) s = .next t) : Effect s (.tsetz a b c) t := by
  cases next_inj h; exact .quiet (registersOnly_setTrit _ _ _ _ _)

theorem effect_tsetp {a b c} {s t : State} (h : exec (.tsetp a b c) s = .next t) : Effect s (.tsetp a b c) t := by
  cases next_inj h; exact .quiet (registersOnly_setTrit _ _ _ _ _)

theorem effect_fadd {a b c} {s t : State} (h : exec (.fadd a b c) s = .next t) : Effect s (.fadd a b c) t := by
  cases next_inj h; exact .quiet (registersOnly_tfpBinary _ _ _ _ _ _)

theorem effect_fsub {a b c} {s t : State} (h : exec (.fsub a b c) s = .next t) : Effect s (.fsub a b c) t := by
  cases next_inj h; exact .quiet (registersOnly_tfpBinary _ _ _ _ _ _)

theorem effect_fmul {a b c} {s t : State} (h : exec (.fmul a b c) s = .next t) : Effect s (.fmul a b c) t := by
  cases next_inj h; exact .quiet (registersOnly_tfpBinary _ _ _ _ _ _)

theorem effect_fdiv {a b c} {s t : State} (h : exec (.fdiv a b c) s = .next t) : Effect s (.fdiv a b c) t := by
  cases next_inj h; exact .quiet (registersOnly_tfpBinary _ _ _ _ _ _)

theorem effect_fcvti {a b} {s t : State} (h : exec (.fcvti a b) s = .next t) : Effect s (.fcvti a b) t := by
  cases next_inj h; exact .quiet (registersOnly_tfpToInt _ _ _ _ _)

theorem effect_fcvtiz {a b} {s t : State} (h : exec (.fcvtiz a b) s = .next t) : Effect s (.fcvtiz a b) t := by
  cases next_inj h; exact .quiet (registersOnly_tfpToInt _ _ _ _ _)

theorem effect_cmp {a b} {s t : State} (h : exec (.cmp a b) s = .next t) : Effect s (.cmp a b) t := by
  cases next_inj h; exact .quiet (registersOnly_compareWrite _ _)

theorem effect_cmpi {a b} {s t : State} (h : exec (.cmpi a b) s = .next t) : Effect s (.cmpi a b) t := by
  cases next_inj h; exact .quiet (registersOnly_compareWrite _ _)

theorem effect_beq {a b} {s t : State} (h : exec (.beq a b) s = .next t) : Effect s (.beq a b) t := by
  cases next_inj h; exact .quiet (registersOnly_branchIf _ _ _)

theorem effect_bne {a b} {s t : State} (h : exec (.bne a b) s = .next t) : Effect s (.bne a b) t := by
  cases next_inj h; exact .quiet (registersOnly_branchIf _ _ _)

theorem effect_blt {a b} {s t : State} (h : exec (.blt a b) s = .next t) : Effect s (.blt a b) t := by
  cases next_inj h; exact .quiet (registersOnly_branchIf _ _ _)

theorem effect_bgt {a b} {s t : State} (h : exec (.bgt a b) s = .next t) : Effect s (.bgt a b) t := by
  cases next_inj h; exact .quiet (registersOnly_branchIf _ _ _)

theorem effect_ble {a b} {s t : State} (h : exec (.ble a b) s = .next t) : Effect s (.ble a b) t := by
  cases next_inj h; exact .quiet (registersOnly_branchIf _ _ _)

theorem effect_bge {a b} {s t : State} (h : exec (.bge a b) s = .next t) : Effect s (.bge a b) t := by
  cases next_inj h; exact .quiet (registersOnly_branchIf _ _ _)

theorem effect_bf {a b c d} {s t : State} (h : exec (.bf a b c d) s = .next t) : Effect s (.bf a b c d) t := by
  cases next_inj h; exact .quiet (registersOnly_branchIf _ _ _)

theorem effect_add {rd rs1 rs2} {s t : State} (h : exec (.add rd rs1 rs2) s = .next t) : Effect s (.add rd rs1 rs2) t := by
  cases next_inj h
  exact .quiet (registersOnly_aluWrite _ _ _ _)

theorem effect_adds {rd rs1 rs2} {s t : State} (h : exec (.adds rd rs1 rs2) s = .next t) : Effect s (.adds rd rs1 rs2) t := by
  cases next_inj h
  exact .quiet (registersOnly_aluWrite _ _ _ _)

theorem effect_adc {rd rs1 rs2} {s t : State} (h : exec (.adc rd rs1 rs2) s = .next t) : Effect s (.adc rd rs1 rs2) t := by
  cases next_inj h
  exact .quiet (registersOnly_aluWrite _ _ _ _)

theorem effect_sub {rd rs1 rs2} {s t : State} (h : exec (.sub rd rs1 rs2) s = .next t) : Effect s (.sub rd rs1 rs2) t := by
  cases next_inj h
  exact .quiet (registersOnly_aluWrite _ _ _ _)

theorem effect_subs {rd rs1 rs2} {s t : State} (h : exec (.subs rd rs1 rs2) s = .next t) : Effect s (.subs rd rs1 rs2) t := by
  cases next_inj h
  exact .quiet (registersOnly_aluWrite _ _ _ _)

theorem effect_sbc {rd rs1 rs2} {s t : State} (h : exec (.sbc rd rs1 rs2) s = .next t) : Effect s (.sbc rd rs1 rs2) t := by
  cases next_inj h
  exact .quiet (registersOnly_aluWrite _ _ _ _)

theorem effect_mul {rd rs1 rs2} {s t : State} (h : exec (.mul rd rs1 rs2) s = .next t) : Effect s (.mul rd rs1 rs2) t := by
  cases next_inj h
  exact .quiet (registersOnly_aluWrite _ _ _ _)

theorem effect_mulh {rd rs1 rs2} {s t : State} (h : exec (.mulh rd rs1 rs2) s = .next t) : Effect s (.mulh rd rs1 rs2) t := by
  cases next_inj h
  exact .quiet (registersOnly_aluWrite _ _ _ _)

theorem effect_neg {rd rs1} {s t : State} (h : exec (.neg rd rs1) s = .next t) : Effect s (.neg rd rs1) t := by
  cases next_inj h
  exact .quiet (registersOnly_aluWrite _ _ _ _)

theorem effect_tand {rd rs1 rs2} {s t : State} (h : exec (.tand rd rs1 rs2) s = .next t) : Effect s (.tand rd rs1 rs2) t := by
  cases next_inj h
  exact .quiet (registersOnly_aluWrite _ _ _ _)

theorem effect_tor {rd rs1 rs2} {s t : State} (h : exec (.tor rd rs1 rs2) s = .next t) : Effect s (.tor rd rs1 rs2) t := by
  cases next_inj h
  exact .quiet (registersOnly_aluWrite _ _ _ _)

theorem effect_tnot {rd rs1} {s t : State} (h : exec (.tnot rd rs1) s = .next t) : Effect s (.tnot rd rs1) t := by
  cases next_inj h
  exact .quiet (registersOnly_aluWrite _ _ _ _)

theorem effect_timpl {rd rs1 rs2} {s t : State} (h : exec (.timpl rd rs1 rs2) s = .next t) : Effect s (.timpl rd rs1 rs2) t := by
  cases next_inj h
  exact .quiet (registersOnly_aluWrite _ _ _ _)

theorem effect_cons {rd rs1 rs2} {s t : State} (h : exec (.cons rd rs1 rs2) s = .next t) : Effect s (.cons rd rs1 rs2) t := by
  cases next_inj h
  exact .quiet (registersOnly_aluWrite _ _ _ _)

theorem effect_acons {rd rs1 rs2} {s t : State} (h : exec (.acons rd rs1 rs2) s = .next t) : Effect s (.acons rd rs1 rs2) t := by
  cases next_inj h
  exact .quiet (registersOnly_aluWrite _ _ _ _)

theorem effect_tshift {rd rs1 rs2} {s t : State} (h : exec (.tshift rd rs1 rs2) s = .next t) : Effect s (.tshift rd rs1 rs2) t := by
  cases next_inj h
  exact .quiet (registersOnly_aluWrite _ _ _ _)

theorem effect_tcmp {rd rs1 rs2} {s t : State} (h : exec (.tcmp rd rs1 rs2) s = .next t) : Effect s (.tcmp rd rs1 rs2) t := by
  cases next_inj h
  exact .quiet (registersOnly_aluWrite _ _ _ _)

theorem effect_li {rd imm} {s t : State} (h : exec (.li rd imm) s = .next t) : Effect s (.li rd imm) t := by
  cases next_inj h
  exact .quiet (registersOnly_regWrite _ _ _)

theorem effect_lui {rd imm} {s t : State} (h : exec (.lui rd imm) s = .next t) : Effect s (.lui rd imm) t := by
  cases next_inj h
  exact .quiet (registersOnly_regWrite _ _ _)

theorem effect_addi {rd rs1 imm} {s t : State} (h : exec (.addi rd rs1 imm) s = .next t) : Effect s (.addi rd rs1 imm) t := by
  cases next_inj h
  exact .quiet (registersOnly_regWrite _ _ _)

theorem effect_tsign {rd rs1} {s t : State} (h : exec (.tsign rd rs1) s = .next t) : Effect s (.tsign rd rs1) t := by
  cases next_inj h
  exact .quiet (registersOnly_regWrite _ _ _)

theorem effect_tabs {rd rs1} {s t : State} (h : exec (.tabs rd rs1) s = .next t) : Effect s (.tabs rd rs1) t := by
  cases next_inj h
  exact .quiet (registersOnly_regWrite _ _ _)

theorem effect_tmin {rd rs1} {s t : State} (h : exec (.tmin rd rs1) s = .next t) : Effect s (.tmin rd rs1) t := by
  cases next_inj h
  exact .quiet (registersOnly_regWrite _ _ _)

theorem effect_tmax {rd rs1} {s t : State} (h : exec (.tmax rd rs1) s = .next t) : Effect s (.tmax rd rs1) t := by
  cases next_inj h
  exact .quiet (registersOnly_regWrite _ _ _)

theorem effect_ficvt {rd rs1} {s t : State} (h : exec (.ficvt rd rs1) s = .next t) : Effect s (.ficvt rd rs1) t := by
  cases next_inj h
  exact .quiet (registersOnly_regWrite _ _ _)

theorem effect_vadd {vd vs1 vs2} {s t : State} (h : exec (.vadd vd vs1 vs2) s = .next t) : Effect s (.vadd vd vs1 vs2) t := by
  cases next_inj h
  exact .quiet (registersOnly_vregWrite _ _ _)

theorem effect_vsub {vd vs1 vs2} {s t : State} (h : exec (.vsub vd vs1 vs2) s = .next t) : Effect s (.vsub vd vs1 vs2) t := by
  cases next_inj h
  exact .quiet (registersOnly_vregWrite _ _ _)

theorem effect_vmul {vd vs1 vs2} {s t : State} (h : exec (.vmul vd vs1 vs2) s = .next t) : Effect s (.vmul vd vs1 vs2) t := by
  cases next_inj h
  exact .quiet (registersOnly_vregWrite _ _ _)

theorem effect_vand {vd vs1 vs2} {s t : State} (h : exec (.vand vd vs1 vs2) s = .next t) : Effect s (.vand vd vs1 vs2) t := by
  cases next_inj h
  exact .quiet (registersOnly_vregWrite _ _ _)

theorem effect_vor {vd vs1 vs2} {s t : State} (h : exec (.vor vd vs1 vs2) s = .next t) : Effect s (.vor vd vs1 vs2) t := by
  cases next_inj h
  exact .quiet (registersOnly_vregWrite _ _ _)

theorem effect_vimpl {vd vs1 vs2} {s t : State} (h : exec (.vimpl vd vs1 vs2) s = .next t) : Effect s (.vimpl vd vs1 vs2) t := by
  cases next_inj h
  exact .quiet (registersOnly_vregWrite _ _ _)

theorem effect_vnot {vd vs1} {s t : State} (h : exec (.vnot vd vs1) s = .next t) : Effect s (.vnot vd vs1) t := by
  cases next_inj h
  exact .quiet (registersOnly_vregWrite _ _ _)

theorem effect_vcons {vd vs1 vs2} {s t : State} (h : exec (.vcons vd vs1 vs2) s = .next t) : Effect s (.vcons vd vs1 vs2) t := by
  cases next_inj h
  exact .quiet (registersOnly_vregWrite _ _ _)

theorem effect_vacons {vd vs1 vs2} {s t : State} (h : exec (.vacons vd vs1 vs2) s = .next t) : Effect s (.vacons vd vs1 vs2) t := by
  cases next_inj h
  exact .quiet (registersOnly_vregWrite _ _ _)

theorem effect_vsel {vd vs1 vs2 vm} {s t : State} (h : exec (.vsel vd vs1 vs2 vm) s = .next t) : Effect s (.vsel vd vs1 vs2 vm) t := by
  cases next_inj h
  exact .quiet (registersOnly_vregWrite _ _ _)

theorem effect_vcmp {vd vs1 vs2} {s t : State} (h : exec (.vcmp vd vs1 vs2) s = .next t) : Effect s (.vcmp vd vs1 vs2) t := by
  cases next_inj h
  exact .quiet (registersOnly_vregWrite _ _ _)

theorem effect_vredSum {rd vs1} {s t : State} (h : exec (.vredSum rd vs1) s = .next t) : Effect s (.vredSum rd vs1) t := by
  cases next_inj h
  exact .quiet (registersOnly_regWrite _ _ _)

theorem effect_vredSign {rd vs1} {s t : State} (h : exec (.vredSign rd vs1) s = .next t) : Effect s (.vredSign rd vs1) t := by
  cases next_inj h
  exact .quiet (registersOnly_regWrite _ _ _)

theorem effect_vredCons {rd vs1} {s t : State} (h : exec (.vredCons rd vs1) s = .next t) : Effect s (.vredCons rd vs1) t := by
  cases next_inj h
  exact .quiet (registersOnly_regWrite _ _ _)

theorem effect_vredLst {rd vs1} {s t : State} (h : exec (.vredLst rd vs1) s = .next t) : Effect s (.vredLst rd vs1) t := by
  cases next_inj h
  exact .quiet (registersOnly_regWrite _ _ _)

theorem effect_vredMst {rd vs1} {s t : State} (h : exec (.vredMst rd vs1) s = .next t) : Effect s (.vredMst rd vs1) t := by
  cases next_inj h
  exact .quiet (registersOnly_regWrite _ _ _)

theorem effect_vredAnd {rd vs1} {s t : State} (h : exec (.vredAnd rd vs1) s = .next t) : Effect s (.vredAnd rd vs1) t := by
  cases next_inj h
  exact .quiet (registersOnly_regWrite _ _ _)

theorem effect_vredOr {rd vs1} {s t : State} (h : exec (.vredOr rd vs1) s = .next t) : Effect s (.vredOr rd vs1) t := by
  cases next_inj h
  exact .quiet (registersOnly_regWrite _ _ _)

theorem effect_vrotl {vd vs1 vs2} {s t : State} (h : exec (.vrotl vd vs1 vs2) s = .next t) : Effect s (.vrotl vd vs1 vs2) t := by
  cases next_inj h
  exact .quiet (registersOnly_vregWrite _ _ _)

theorem effect_vrotr {vd vs1 vs2} {s t : State} (h : exec (.vrotr vd vs1 vs2) s = .next t) : Effect s (.vrotr vd vs1 vs2) t := by
  cases next_inj h
  exact .quiet (registersOnly_vregWrite _ _ _)

theorem effect_vshl {vd vs1 vs2} {s t : State} (h : exec (.vshl vd vs1 vs2) s = .next t) : Effect s (.vshl vd vs1 vs2) t := by
  cases next_inj h
  exact .quiet (registersOnly_vregWrite _ _ _)

theorem effect_vshr {vd vs1 vs2} {s t : State} (h : exec (.vshr vd vs1 vs2) s = .next t) : Effect s (.vshr vd vs1 vs2) t := by
  cases next_inj h
  exact .quiet (registersOnly_vregWrite _ _ _)

theorem effect_vrev {vd vs1} {s t : State} (h : exec (.vrev vd vs1) s = .next t) : Effect s (.vrev vd vs1) t := by
  cases next_inj h
  exact .quiet (registersOnly_vregWrite _ _ _)

theorem effect_vmovGv {vd rs1} {s t : State} (h : exec (.vmovGv vd rs1) s = .next t) : Effect s (.vmovGv vd rs1) t := by
  cases next_inj h
  exact .quiet (registersOnly_vregWrite _ _ _)

theorem effect_vmovVg {rd vs1} {s t : State} (h : exec (.vmovVg rd vs1) s = .next t) : Effect s (.vmovVg rd vs1) t := by
  cases next_inj h
  exact .quiet (registersOnly_regWrite _ _ _)

theorem effect_vmovVv {vd vs1} {s t : State} (h : exec (.vmovVv vd vs1) s = .next t) : Effect s (.vmovVv vd vs1) t := by
  cases next_inj h
  exact .quiet (registersOnly_vregWrite _ _ _)

theorem effect_vbcast {vd rs1} {s t : State} (h : exec (.vbcast vd rs1) s = .next t) : Effect s (.vbcast vd rs1) t := by
  cases next_inj h
  exact .quiet (registersOnly_vregWrite _ _ _)

/-- Every instruction that answers a next state had one of these effects. -/
theorem exec_effect {i : Instr} {s t : State} (h : exec i s = .next t) : Effect s i t := by
  cases i with
  | add _ _ _ => exact effect_add h
  | adds _ _ _ => exact effect_adds h
  | adc _ _ _ => exact effect_adc h
  | sub _ _ _ => exact effect_sub h
  | subs _ _ _ => exact effect_subs h
  | sbc _ _ _ => exact effect_sbc h
  | mul _ _ _ => exact effect_mul h
  | mulh _ _ _ => exact effect_mulh h
  | illegalMul _ => exact effect_illegalMul h
  | div _ _ _ => exact effect_div h
  | mod _ _ _ => exact effect_mod h
  | neg _ _ => exact effect_neg h
  | tand _ _ _ => exact effect_tand h
  | tor _ _ _ => exact effect_tor h
  | tnot _ _ => exact effect_tnot h
  | timpl _ _ _ => exact effect_timpl h
  | cons _ _ _ => exact effect_cons h
  | acons _ _ _ => exact effect_acons h
  | tshift _ _ _ => exact effect_tshift h
  | tcmp _ _ _ => exact effect_tcmp h
  | load _ _ _ => exact effect_load h
  | store _ _ _ => exact effect_store h
  | li _ _ => exact effect_li h
  | lui _ _ => exact effect_lui h
  | addi _ _ _ => exact effect_addi h
  | brt3 _ _ _ => exact effect_brt3 h
  | cmpi _ _ => exact effect_cmpi h
  | beq _ _ => exact effect_beq h
  | bne _ _ => exact effect_bne h
  | blt _ _ => exact effect_blt h
  | bgt _ _ => exact effect_bgt h
  | ble _ _ => exact effect_ble h
  | bge _ _ => exact effect_bge h
  | jmpa _ _ => exact effect_jmpa h
  | bf _ _ _ _ => exact effect_bf h
  | jmp _ => exact effect_jmp h
  | call _ => exact effect_call h
  | csrr _ _ _ _ => exact effect_csrr h
  | csrw _ _ _ _ => exact effect_csrw h
  | csrx _ _ _ _ => exact effect_csrx h
  | ecall => exact effect_ecall h
  | hcall => exact effect_hcall h
  | dbgbrk => exact effect_dbgbrk h
  | iret => exact effect_iret h
  | tsel _ _ _ _ => exact effect_tsel h
  | nop => exact effect_nop h
  | halt => exact effect_halt h
  | tget _ _ _ => exact effect_tget h
  | tsetn _ _ _ => exact effect_tsetn h
  | tsetz _ _ _ => exact effect_tsetz h
  | tsetp _ _ _ => exact effect_tsetp h
  | tsign _ _ => exact effect_tsign h
  | cmp _ _ => exact effect_cmp h
  | tabs _ _ => exact effect_tabs h
  | tmin _ _ => exact effect_tmin h
  | tmax _ _ => exact effect_tmax h
  | fadd _ _ _ => exact effect_fadd h
  | fsub _ _ _ => exact effect_fsub h
  | fmul _ _ _ => exact effect_fmul h
  | fdiv _ _ _ => exact effect_fdiv h
  | fcmp _ _ => exact effect_fcmp h
  | ficvt _ _ => exact effect_ficvt h
  | fcvti _ _ => exact effect_fcvti h
  | fcvtiz _ _ => exact effect_fcvtiz h
  | vadd _ _ _ => exact effect_vadd h
  | vsub _ _ _ => exact effect_vsub h
  | illegalVadd _ => exact effect_illegalVadd h
  | vmul _ _ _ => exact effect_vmul h
  | vand _ _ _ => exact effect_vand h
  | vor _ _ _ => exact effect_vor h
  | vimpl _ _ _ => exact effect_vimpl h
  | vnot _ _ => exact effect_vnot h
  | vcons _ _ _ => exact effect_vcons h
  | vacons _ _ _ => exact effect_vacons h
  | illegalVlog _ => exact effect_illegalVlog h
  | vsel _ _ _ _ => exact effect_vsel h
  | vcmp _ _ _ => exact effect_vcmp h
  | vredSum _ _ => exact effect_vredSum h
  | vredSign _ _ => exact effect_vredSign h
  | vredCons _ _ => exact effect_vredCons h
  | vredLst _ _ => exact effect_vredLst h
  | vredMst _ _ => exact effect_vredMst h
  | vredAnd _ _ => exact effect_vredAnd h
  | vredOr _ _ => exact effect_vredOr h
  | illegalVred _ => exact effect_illegalVred h
  | vrotl _ _ _ => exact effect_vrotl h
  | vrotr _ _ _ => exact effect_vrotr h
  | vshl _ _ _ => exact effect_vshl h
  | vshr _ _ _ => exact effect_vshr h
  | vrev _ _ => exact effect_vrev h
  | vshuf _ _ _ => exact effect_vshuf h
  | illegalVperm _ => exact effect_illegalVperm h
  | vmovGv _ _ => exact effect_vmovGv h
  | vmovVg _ _ => exact effect_vmovVg h
  | vmovVv _ _ => exact effect_vmovVv h
  | vbcast _ _ => exact effect_vbcast h
  | vins _ _ _ _ _ => exact effect_vins h
  | vext _ _ _ _ _ => exact effect_vext h
  | illegalVmove _ => exact effect_illegalVmove h
  | reservedOpcode _ => exact effect_reservedOpcode h
  | customOpcode _ => exact effect_customOpcode h

end Sys2Proof.Machine
end

