-- ==== Sys2Proof/Laws/PerInstr.lean ====
section
/-! SUPPORT. The family `OpcodeNumber` of LAWS.json: for every constructor of `Instr`, the word of a well-formed
instruction carries the opcode number that the map of R120 gives the instruction. -/

namespace Sys2Proof

/-- The opcodes of the map of R120 that an instruction's word may carry. -/
def Instr.opcodes : Instr → List Int
  | .add _ _ _ | .adds _ _ _ | .adc _ _ _ => [-40]
  | .sub _ _ _ | .subs _ _ _ | .sbc _ _ _ => [-39]
  | .mul _ _ _ | .mulh _ _ _ | .illegalMul _ => [-38]
  | .div _ _ _ => [-37]
  | .mod _ _ _ => [-36]
  | .neg _ _ => [-35]
  | .tand _ _ _ => [-34]
  | .tor _ _ _ => [-33]
  | .tnot _ _ => [-32]
  | .timpl _ _ _ => [-31]
  | .cons _ _ _ => [-30]
  | .acons _ _ _ => [-29]
  | .tshift _ _ _ => [-28]
  | .tcmp _ _ _ => [-27]
  | .load _ _ _ => [-26]
  | .store _ _ _ => [-25]
  | .li _ _ => [-24]
  | .lui _ _ => [-23]
  | .addi _ _ _ => [-22]
  | .brt3 _ _ _ => [-21]
  | .cmpi _ _ => [-18]
  | .beq _ _ => [-17]
  | .bne _ _ => [-16]
  | .blt _ _ => [-15]
  | .bgt _ _ => [-14]
  | .ble _ _ => [-13]
  | .bge _ _ => [-12]
  | .jmpa _ _ => [-11]
  | .bf _ _ _ _ => [-10]
  | .jmp _ => [-9]
  | .call _ => [-8]
  | .csrr _ _ _ _ => [-7]
  | .csrw _ _ _ _ => [-6]
  | .csrx _ _ _ _ => [-5]
  | .ecall | .hcall | .dbgbrk => [-4]
  | .iret => [-3]
  | .tsel _ _ _ _ => [-2]
  | .nop => [-1]
  | .halt => [0]
  | .tget _ _ _ => [1]
  | .tsetn _ _ _ | .tsetz _ _ _ | .tsetp _ _ _ => [2]
  | .tsign _ _ => [3]
  | .cmp _ _ => [4]
  | .tabs _ _ => [5]
  | .tmin _ _ => [6]
  | .tmax _ _ => [7]
  | .fadd _ _ _ => [8]
  | .fsub _ _ _ => [9]
  | .fmul _ _ _ => [10]
  | .fdiv _ _ _ => [11]
  | .fcmp _ _ => [12]
  | .ficvt _ _ | .fcvti _ _ | .fcvtiz _ _ => [13]
  | .vadd _ _ _ | .vsub _ _ _ | .illegalVadd _ => [15]
  | .vmul _ _ _ => [16]
  | .vand _ _ _ | .vor _ _ _ | .vimpl _ _ _ | .vnot _ _ | .vcons _ _ _ | .vacons _ _ _ | .illegalVlog _ => [17]
  | .vsel _ _ _ _ => [18]
  | .vcmp _ _ _ => [19]
  | .vredSum _ _ | .vredSign _ _ | .vredCons _ _ | .vredLst _ _ | .vredMst _ _ | .vredAnd _ _ | .vredOr _ _
  | .illegalVred _ => [20]
  | .vrotl _ _ _ | .vrotr _ _ _ | .vshl _ _ _ | .vshr _ _ _ | .vrev _ _ | .vshuf _ _ _ | .illegalVperm _ => [21]
  | .vmovGv _ _ | .vmovVg _ _ | .vmovVv _ _ | .vbcast _ _ | .vins _ _ _ _ _ | .vext _ _ _ _ _
  | .illegalVmove _ => [22]
  | .reservedOpcode _ => [-20, -19, 14, 23, 24]
  | .customOpcode _ => [25, 26, 27, 28, 29, 30, 31, 32, 33, 34, 35, 36, 37, 38, 39, 40]

namespace Laws.OpcodeNumber

/-- The word of a well-formed instruction carries one of the instruction's opcodes. -/
def Statement (i : Instr) : Prop := i.wf = true → opcodeOf (encode i) ∈ i.opcodes

/-- The opcode of a word is read off its first four trits. -/
theorem opcodeOf_assemble (a b c d : Trit) (rest : List (List Trit)) :
    opcodeOf (assemble ([a, b, c, d] :: rest)) = a.val + 3 * b.val + 9 * c.val + 27 * d.val := by
  have h0 : (assemble ([a, b, c, d] :: rest)).get 0 = a := get_assemble _ (by decide)
  have h1 : (assemble ([a, b, c, d] :: rest)).get 1 = b := get_assemble _ (by decide)
  have h2 : (assemble ([a, b, c, d] :: rest)).get 2 = c := get_assemble _ (by decide)
  have h3 : (assemble ([a, b, c, d] :: rest)).get 3 = d := get_assemble _ (by decide)
  rw [opcodeOf_eq, h0, h1, h2, h3]

theorem of_eq {i : Instr} {c : Int} (h : opcodeOf (encode i) = c) (hc : i.opcodes = [c]) : Statement i :=
  fun _ => by rw [h, hc]; exact List.mem_singleton.2 rfl

theorem add : ∀ rd rs1 rs2, Statement (.add rd rs1 rs2) :=
  fun _ _ _ => of_eq (opcodeOf_assemble _ _ _ _ _) rfl
theorem adds : ∀ rd rs1 rs2, Statement (.adds rd rs1 rs2) :=
  fun _ _ _ => of_eq (opcodeOf_assemble _ _ _ _ _) rfl
theorem adc : ∀ rd rs1 rs2, Statement (.adc rd rs1 rs2) :=
  fun _ _ _ => of_eq (opcodeOf_assemble _ _ _ _ _) rfl
theorem sub : ∀ rd rs1 rs2, Statement (.sub rd rs1 rs2) :=
  fun _ _ _ => of_eq (opcodeOf_assemble _ _ _ _ _) rfl
theorem subs : ∀ rd rs1 rs2, Statement (.subs rd rs1 rs2) :=
  fun _ _ _ => of_eq (opcodeOf_assemble _ _ _ _ _) rfl
theorem sbc : ∀ rd rs1 rs2, Statement (.sbc rd rs1 rs2) :=
  fun _ _ _ => of_eq (opcodeOf_assemble _ _ _ _ _) rfl
theorem mul : ∀ rd rs1 rs2, Statement (.mul rd rs1 rs2) :=
  fun _ _ _ => of_eq (opcodeOf_assemble _ _ _ _ _) rfl
theorem mulh : ∀ rd rs1 rs2, Statement (.mulh rd rs1 rs2) :=
  fun _ _ _ => of_eq (opcodeOf_assemble _ _ _ _ _) rfl
theorem illegalMul (w : Word) : Statement (.illegalMul w) := fun h =>
  List.mem_singleton.2 (eq_of_beq (Bool.and_eq_true_iff.1 h).1)
theorem div : ∀ rd rs1 rs2, Statement (.div rd rs1 rs2) :=
  fun _ _ _ => of_eq (opcodeOf_assemble _ _ _ _ _) rfl
theorem mod : ∀ rd rs1 rs2, Statement (.mod rd rs1 rs2) :=
  fun _ _ _ => of_eq (opcodeOf_assemble _ _ _ _ _) rfl
theorem neg : ∀ rd rs1, Statement (.neg rd rs1) :=
  fun _ _ => of_eq (opcodeOf_assemble _ _ _ _ _) rfl
theorem tand : ∀ rd rs1 rs2, Statement (.tand rd rs1 rs2) :=
  fun _ _ _ => of_eq (opcodeOf_assemble _ _ _ _ _) rfl
theorem tor : ∀ rd rs1 rs2, Statement (.tor rd rs1 rs2) :=
  fun _ _ _ => of_eq (opcodeOf_assemble _ _ _ _ _) rfl
theorem tnot : ∀ rd rs1, Statement (.tnot rd rs1) :=
  fun _ _ => of_eq (opcodeOf_assemble _ _ _ _ _) rfl
theorem timpl : ∀ rd rs1 rs2, Statement (.timpl rd rs1 rs2) :=
  fun _ _ _ => of_eq (opcodeOf_assemble _ _ _ _ _) rfl
theorem cons : ∀ rd rs1 rs2, Statement (.cons rd rs1 rs2) :=
  fun _ _ _ => of_eq (opcodeOf_assemble _ _ _ _ _) rfl
theorem acons : ∀ rd rs1 rs2, Statement (.acons rd rs1 rs2) :=
  fun _ _ _ => of_eq (opcodeOf_assemble _ _ _ _ _) rfl
theorem tshift : ∀ rd rs1 rs2, Statement (.tshift rd rs1 rs2) :=
  fun _ _ _ => of_eq (opcodeOf_assemble _ _ _ _ _) rfl
theorem tcmp : ∀ rd rs1 rs2, Statement (.tcmp rd rs1 rs2) :=
  fun _ _ _ => of_eq (opcodeOf_assemble _ _ _ _ _) rfl
theorem load : ∀ rd rs1 imm, Statement (.load rd rs1 imm) :=
  fun _ _ _ => of_eq (opcodeOf_assemble _ _ _ _ _) rfl
theorem store : ∀ rsrc rs1 imm, Statement (.store rsrc rs1 imm) :=
  fun _ _ _ => of_eq (opcodeOf_assemble _ _ _ _ _) rfl
theorem li : ∀ rd imm, Statement (.li rd imm) :=
  fun _ _ => of_eq (opcodeOf_assemble _ _ _ _ _) rfl
theorem lui : ∀ rd imm, Statement (.lui rd imm) :=
  fun _ _ => of_eq (opcodeOf_assemble _ _ _ _ _) rfl
theorem addi : ∀ rd rs1 imm, Statement (.addi rd rs1 imm) :=
  fun _ _ _ => of_eq (opcodeOf_assemble _ _ _ _ _) rfl
theorem brt3 : ∀ rX offZ offN, Statement (.brt3 rX offZ offN) :=
  fun _ _ _ => of_eq (opcodeOf_assemble _ _ _ _ _) rfl
theorem cmpi : ∀ rs1 imm, Statement (.cmpi rs1 imm) :=
  fun _ _ => of_eq (opcodeOf_assemble _ _ _ _ _) rfl
theorem beq : ∀ rs1 off, Statement (.beq rs1 off) :=
  fun _ _ => of_eq (opcodeOf_assemble _ _ _ _ _) rfl
theorem bne : ∀ rs1 off, Statement (.bne rs1 off) :=
  fun _ _ => of_eq (opcodeOf_assemble _ _ _ _ _) rfl
theorem blt : ∀ rs1 off, Statement (.blt rs1 off) :=
  fun _ _ => of_eq (opcodeOf_assemble _ _ _ _ _) rfl
theorem bgt : ∀ rs1 off, Statement (.bgt rs1 off) :=
  fun _ _ => of_eq (opcodeOf_assemble _ _ _ _ _) rfl
theorem ble : ∀ rs1 off, Statement (.ble rs1 off) :=
  fun _ _ => of_eq (opcodeOf_assemble _ _ _ _ _) rfl
theorem bge : ∀ rs1 off, Statement (.bge rs1 off) :=
  fun _ _ => of_eq (opcodeOf_assemble _ _ _ _ _) rfl
theorem jmpa : ∀ rs1 off, Statement (.jmpa rs1 off) :=
  fun _ _ => of_eq (opcodeOf_assemble _ _ _ _ _) rfl
theorem bf : ∀ mN mZ mP off, Statement (.bf mN mZ mP off) :=
  fun _ _ _ _ => of_eq (opcodeOf_assemble _ _ _ _ _) rfl
theorem jmp : ∀ off, Statement (.jmp off) :=
  fun _ => of_eq (opcodeOf_assemble _ _ _ _ _) rfl
theorem call : ∀ off, Statement (.call off) :=
  fun _ => of_eq (opcodeOf_assemble _ _ _ _ _) rfl
theorem csrr : ∀ rd csr ignLo ignHi, Statement (.csrr rd csr ignLo ignHi) :=
  fun _ _ _ _ => of_eq (opcodeOf_assemble _ _ _ _ _) rfl
theorem csrw : ∀ csr rs1 ignLo ignHi, Statement (.csrw csr rs1 ignLo ignHi) :=
  fun _ _ _ _ => of_eq (opcodeOf_assemble _ _ _ _ _) rfl
theorem csrx : ∀ rd rs1 csr ignHi, Statement (.csrx rd rs1 csr ignHi) :=
  fun _ _ _ _ => of_eq (opcodeOf_assemble _ _ _ _ _) rfl
theorem ecall : Statement (.ecall) :=
  of_eq (opcodeOf_assemble _ _ _ _ _) rfl
theorem hcall : Statement (.hcall) :=
  of_eq (opcodeOf_assemble _ _ _ _ _) rfl
theorem dbgbrk : Statement (.dbgbrk) :=
  of_eq (opcodeOf_assemble _ _ _ _ _) rfl
theorem iret : Statement (.iret) :=
  of_eq (opcodeOf_assemble _ _ _ _ _) rfl
theorem tsel : ∀ rd rn rz rp, Statement (.tsel rd rn rz rp) :=
  fun _ _ _ _ => of_eq (opcodeOf_assemble _ _ _ _ _) rfl
theorem nop : Statement (.nop) :=
  of_eq (opcodeOf_assemble _ _ _ _ _) rfl
theorem halt : Statement (.halt) :=
  of_eq (opcodeOf_assemble _ _ _ _ _) rfl
theorem tget : ∀ rd rs1 rs2, Statement (.tget rd rs1 rs2) :=
  fun _ _ _ => of_eq (opcodeOf_assemble _ _ _ _ _) rfl
theorem tsetn : ∀ rd rs1 rs2, Statement (.tsetn rd rs1 rs2) :=
  fun _ _ _ => of_eq (opcodeOf_assemble _ _ _ _ _) rfl
theorem tsetz : ∀ rd rs1 rs2, Statement (.tsetz rd rs1 rs2) :=
  fun _ _ _ => of_eq (opcodeOf_assemble _ _ _ _ _) rfl
theorem tsetp : ∀ rd rs1 rs2, Statement (.tsetp rd rs1 rs2) :=
  fun _ _ _ => of_eq (opcodeOf_assemble _ _ _ _ _) rfl
theorem tsign : ∀ rd rs1, Statement (.tsign rd rs1) :=
  fun _ _ => of_eq (opcodeOf_assemble _ _ _ _ _) rfl
theorem cmp : ∀ rs1 rs2, Statement (.cmp rs1 rs2) :=
  fun _ _ => of_eq (opcodeOf_assemble _ _ _ _ _) rfl
theorem tabs : ∀ rd rs1, Statement (.tabs rd rs1) :=
  fun _ _ => of_eq (opcodeOf_assemble _ _ _ _ _) rfl
theorem tmin : ∀ rd rs1, Statement (.tmin rd rs1) :=
  fun _ _ => of_eq (opcodeOf_assemble _ _ _ _ _) rfl
theorem tmax : ∀ rd rs1, Statement (.tmax rd rs1) :=
  fun _ _ => of_eq (opcodeOf_assemble _ _ _ _ _) rfl
theorem fadd : ∀ rd rs1 rs2, Statement (.fadd rd rs1 rs2) :=
  fun _ _ _ => of_eq (opcodeOf_assemble _ _ _ _ _) rfl
theorem fsub : ∀ rd rs1 rs2, Statement (.fsub rd rs1 rs2) :=
  fun _ _ _ => of_eq (opcodeOf_assemble _ _ _ _ _) rfl
theorem fmul : ∀ rd rs1 rs2, Statement (.fmul rd rs1 rs2) :=
  fun _ _ _ => of_eq (opcodeOf_assemble _ _ _ _ _) rfl
theorem fdiv : ∀ rd rs1 rs2, Statement (.fdiv rd rs1 rs2) :=
  fun _ _ _ => of_eq (opcodeOf_assemble _ _ _ _ _) rfl
theorem fcmp : ∀ rs1 rs2, Statement (.fcmp rs1 rs2) :=
  fun _ _ => of_eq (opcodeOf_assemble _ _ _ _ _) rfl
theorem ficvt : ∀ rd rs1, Statement (.ficvt rd rs1) :=
  fun _ _ => of_eq (opcodeOf_assemble _ _ _ _ _) rfl
theorem fcvti : ∀ rd rs1, Statement (.fcvti rd rs1) :=
  fun _ _ => of_eq (opcodeOf_assemble _ _ _ _ _) rfl
theorem fcvtiz : ∀ rd rs1, Statement (.fcvtiz rd rs1) :=
  fun _ _ => of_eq (opcodeOf_assemble _ _ _ _ _) rfl
theorem vadd : ∀ vd vs1 vs2, Statement (.vadd vd vs1 vs2) :=
  fun _ _ _ => of_eq (opcodeOf_assemble _ _ _ _ _) rfl
theorem vsub : ∀ vd vs1 vs2, Statement (.vsub vd vs1 vs2) :=
  fun _ _ _ => of_eq (opcodeOf_assemble _ _ _ _ _) rfl
theorem illegalVadd (w : Word) : Statement (.illegalVadd w) := fun h =>
  List.mem_singleton.2 (eq_of_beq (Bool.and_eq_true_iff.1 h).1)
theorem vmul : ∀ vd vs1 vs2, Statement (.vmul vd vs1 vs2) :=
  fun _ _ _ => of_eq (opcodeOf_assemble _ _ _ _ _) rfl
theorem vand : ∀ vd vs1 vs2, Statement (.vand vd vs1 vs2) :=
  fun _ _ _ => of_eq (opcodeOf_assemble _ _ _ _ _) rfl
theorem vor : ∀ vd vs1 vs2, Statement (.vor vd vs1 vs2) :=
  fun _ _ _ => of_eq (opcodeOf_assemble _ _ _ _ _) rfl
theorem vimpl : ∀ vd vs1 vs2, Statement (.vimpl vd vs1 vs2) :=
  fun _ _ _ => of_eq (opcodeOf_assemble _ _ _ _ _) rfl
theorem vnot : ∀ vd vs1, Statement (.vnot vd vs1) :=
  fun _ _ => of_eq (opcodeOf_assemble _ _ _ _ _) rfl
theorem vcons : ∀ vd vs1 vs2, Statement (.vcons vd vs1 vs2) :=
  fun _ _ _ => of_eq (opcodeOf_assemble _ _ _ _ _) rfl
theorem vacons : ∀ vd vs1 vs2, Statement (.vacons vd vs1 vs2) :=
  fun _ _ _ => of_eq (opcodeOf_assemble _ _ _ _ _) rfl
theorem illegalVlog (w : Word) : Statement (.illegalVlog w) := fun h =>
  List.mem_singleton.2 (eq_of_beq (Bool.and_eq_true_iff.1 h).1)
theorem vsel : ∀ vd vs1 vs2 vm, Statement (.vsel vd vs1 vs2 vm) :=
  fun _ _ _ _ => of_eq (opcodeOf_assemble _ _ _ _ _) rfl
theorem vcmp : ∀ vd vs1 vs2, Statement (.vcmp vd vs1 vs2) :=
  fun _ _ _ => of_eq (opcodeOf_assemble _ _ _ _ _) rfl
theorem vredSum : ∀ rd vs1, Statement (.vredSum rd vs1) :=
  fun _ _ => of_eq (opcodeOf_assemble _ _ _ _ _) rfl
theorem vredSign : ∀ rd vs1, Statement (.vredSign rd vs1) :=
  fun _ _ => of_eq (opcodeOf_assemble _ _ _ _ _) rfl
theorem vredCons : ∀ rd vs1, Statement (.vredCons rd vs1) :=
  fun _ _ => of_eq (opcodeOf_assemble _ _ _ _ _) rfl
theorem vredLst : ∀ rd vs1, Statement (.vredLst rd vs1) :=
  fun _ _ => of_eq (opcodeOf_assemble _ _ _ _ _) rfl
theorem vredMst : ∀ rd vs1, Statement (.vredMst rd vs1) :=
  fun _ _ => of_eq (opcodeOf_assemble _ _ _ _ _) rfl
theorem vredAnd : ∀ rd vs1, Statement (.vredAnd rd vs1) :=
  fun _ _ => of_eq (opcodeOf_assemble _ _ _ _ _) rfl
theorem vredOr : ∀ rd vs1, Statement (.vredOr rd vs1) :=
  fun _ _ => of_eq (opcodeOf_assemble _ _ _ _ _) rfl
theorem illegalVred (w : Word) : Statement (.illegalVred w) := fun h =>
  List.mem_singleton.2 (eq_of_beq (Bool.and_eq_true_iff.1 h).1)
theorem vrotl : ∀ vd vs1 vs2, Statement (.vrotl vd vs1 vs2) :=
  fun _ _ _ => of_eq (opcodeOf_assemble _ _ _ _ _) rfl
theorem vrotr : ∀ vd vs1 vs2, Statement (.vrotr vd vs1 vs2) :=
  fun _ _ _ => of_eq (opcodeOf_assemble _ _ _ _ _) rfl
theorem vshl : ∀ vd vs1 vs2, Statement (.vshl vd vs1 vs2) :=
  fun _ _ _ => of_eq (opcodeOf_assemble _ _ _ _ _) rfl
theorem vshr : ∀ vd vs1 vs2, Statement (.vshr vd vs1 vs2) :=
  fun _ _ _ => of_eq (opcodeOf_assemble _ _ _ _ _) rfl
theorem vrev : ∀ vd vs1, Statement (.vrev vd vs1) :=
  fun _ _ => of_eq (opcodeOf_assemble _ _ _ _ _) rfl
theorem vshuf : ∀ vd vs1 vs2, Statement (.vshuf vd vs1 vs2) :=
  fun _ _ _ => of_eq (opcodeOf_assemble _ _ _ _ _) rfl
theorem illegalVperm (w : Word) : Statement (.illegalVperm w) := fun h =>
  List.mem_singleton.2 (eq_of_beq (Bool.and_eq_true_iff.1 h).1)
theorem vmovGv : ∀ vd rs1, Statement (.vmovGv vd rs1) :=
  fun _ _ => of_eq (opcodeOf_assemble _ _ _ _ _) rfl
theorem vmovVg : ∀ rd vs1, Statement (.vmovVg rd vs1) :=
  fun _ _ => of_eq (opcodeOf_assemble _ _ _ _ _) rfl
theorem vmovVv : ∀ vd vs1, Statement (.vmovVv vd vs1) :=
  fun _ _ => of_eq (opcodeOf_assemble _ _ _ _ _) rfl
theorem vbcast : ∀ vd rs1, Statement (.vbcast vd rs1) :=
  fun _ _ => of_eq (opcodeOf_assemble _ _ _ _ _) rfl
theorem vins : ∀ vd rs1 lane ignLo ignHi, Statement (.vins vd rs1 lane ignLo ignHi) :=
  fun _ _ _ _ _ => of_eq (opcodeOf_assemble _ _ _ _ _) rfl
theorem vext : ∀ rd vs1 lane ignLo ignHi, Statement (.vext rd vs1 lane ignLo ignHi) :=
  fun _ _ _ _ _ => of_eq (opcodeOf_assemble _ _ _ _ _) rfl
theorem illegalVmove (w : Word) : Statement (.illegalVmove w) := fun h =>
  List.mem_singleton.2 (eq_of_beq (Bool.and_eq_true_iff.1 h).1)
theorem reservedOpcode (w : Word) : Statement (.reservedOpcode w) := fun h => by
  simpa [Instr.wf, Instr.opcodes, encode] using h
theorem customOpcode (w : Word) : Statement (.customOpcode w) := fun h => by
  have h : 25 ≤ opcodeOf w ∧ opcodeOf w ≤ 40 := by simpa [Instr.wf, inRange] using h
  show opcodeOf w ∈ Instr.opcodes (.customOpcode w)
  obtain ⟨h1, h2⟩ := h
  generalize opcodeOf w = c at h1 h2
  interval_cases c <;> simp [Instr.opcodes]

end Laws.OpcodeNumber

end Sys2Proof
end

