-- ==== Sys2Proof/Laws/Step.lean ====
section
/-! SUPPORT. The laws of the step: sampling the interrupt lines, reading a CSR, the step where no interrupt is taken,
and the draw of an open value. -/

namespace Sys2Proof.Machine

/-- Sampling the lines consumes the head of the feed and nothing else (log entry 4). -/
theorem State.sampleLines_eq (s : State) : s.sampleLines.2 = { s with irqFeed := s.irqFeed.tail } := by
  unfold State.sampleLines
  cases h : s.irqFeed with
  | nil => cases s; simp_all
  | cons a b => rfl

/-- The state after a CSR read. -/
theorem State.csrRead_state_eq (s : State) (c : Csr) :
    (s.csrRead c).2 = if c = .ipending then { s with irqFeed := s.irqFeed.tail } else s := by
  by_cases h : c = .ipending
  · subst h; simp [State.csrRead, State.sampleLines_eq]
  · rw [if_neg h, State.csrRead_state_of_ne s h]

/-- A step of a running processor with a legal STATUS at which no interrupt is taken: fetch, decode, execute (R440). -/
theorem step_eq {s : State} (h : s.halted = false) (hs : statusLegal s.status = true)
    (hi : s.sampleLines.2.interruptLine s.sampleLines.1 = none) :
    step s = match s.sampleLines.2.fetch with
      | .error stop => finish s.sampleLines.2 (.error stop)
      | .ok w => exec (decode w) s.sampleLines.2 := by
  unfold step
  rw [if_neg (by simp [h]), (statusRefusal_none _).2 hs]
  simp only [hi]
  all_goals (cases s.sampleLines.2.fetch <;> rfl)

theorem State.drawFree_eq (s : State) : s.drawFree.2 = { s with freeCount := s.freeCount + 1 } := rfl

/-- What a TFP result leaves: `rd` and FLAGS, nothing else but pc (R322). -/
theorem State.tfpWrite_spec (s : State) (rd : Reg) (w : Word) (f : Trit × Trit) :
    (s.tfpWrite rd w f).reg rd = (if rd = 0 then zeroWord else w) ∧ (s.tfpWrite rd w f).flagSign = f.1 ∧
      (s.tfpWrite rd w f).flagCarry = f.2 ∧ FrameRegFlags s (s.tfpWrite rd w f) rd ∧
      Advances s (s.tfpWrite rd w f) := by
  refine ⟨?_, ?_, ?_, ⟨?_, ?_, ?_⟩, ?_⟩
  · simp [State.tfpWrite, State.reg_setReg]
  · simp [State.tfpWrite]
  · simp [State.tfpWrite]
  · simp only [State.tfpWrite, State.advance, State.setFlags]; unfold State.setReg; split <;> rfl
  · intro r hr; simp [State.tfpWrite, State.reg_setReg, hr]
  · intro a; simp [State.tfpWrite]
  · simp [Advances, State.tfpWrite, State.nextPc_of_pc_eq (s := s)]

end Sys2Proof.Machine
end

