-- ==== Sys2Proof/Tests/Slice0.lean ====
section
/-! SUPPORT. Tests: ill-formed terms, the decoding of every constructor from a word written trit by trit out of the
encoding strings of spec/opcode_table.json, single instructions with results from spec/95_test_vectors.md (the VSEL row
excepted: it follows the example of R369, log entry 41), and witnesses for the statements with hypotheses. -/

namespace Sys2Proof.Tests

open Sys2Proof Sys2Proof.Machine Trit

/-- A word written least significant trit first; the rest is Z. -/
def tr (l : List Trit) : Word := Trits.ofFn fun i => l.getD i .Z

/-- Ignored trits that are all Z. -/
def zeros {w : Nat} : Trits w := Vector.replicate w .Z

/-- The next state of an outcome, if it is one. -/
def nextOf : Result → Option State
  | .next t => some t
  | .fault _ => none
  | .refused _ => none

/-- Kernel mode, Kleene logic, address 100, the given registers: the start of the vectors of 95_test_vectors.md. -/
def start (regs : List (Reg × Int)) : State :=
  regs.foldl (fun s p => s.setReg p.1 (word p.2)) { State.reset with pc := word 100 }

/-- A register, FLAGS.sign and FLAGS.carry after an instruction. -/
def result (i : Instr) (s : State) (r : Reg) : Option (Int × Int × Int) :=
  (nextOf (exec i s)).map fun t => ((t.reg r).val, t.flagSign.val, t.flagCarry.val)

/-- The pc after an instruction. -/
def target (i : Instr) (s : State) : Option Int := (nextOf (exec i s)).map fun t => t.pc.val

/-- v1 and v2 given. -/
def vstart (a b : Word) : State := (State.reset.setVreg 1 a).setVreg 2 b

/-- Lanes 0..8 of v3 after an instruction. -/
def lanes (i : Instr) (s : State) : Option (List Trit) :=
  (nextOf (exec i s)).map fun t => (List.range 9).map (t.vreg 3).get

/-! ### Ill-formed terms, one for each check of `WellFormed.lean` -/

theorem test_wf_load : Instr.wf (.load 1 2 64570082) = false := by decide
theorem test_wf_store : Instr.wf (.store 1 2 (-64570082)) = false := by decide
theorem test_wf_addi : Instr.wf (.addi 1 2 64570082) = false := by decide
theorem test_wf_li : Instr.wf (.li 1 64570082) = false := by decide
theorem test_wf_lui : Instr.wf (.lui 1 (-64570082)) = false := by decide
theorem test_wf_cmpi : Instr.wf (.cmpi 1 64570082) = false := by decide
theorem test_wf_brt3_first : Instr.wf (.brt3 1 29525 0) = false := by decide
theorem test_wf_brt3_second : Instr.wf (.brt3 1 0 (-29525)) = false := by decide
theorem test_wf_beq : Instr.wf (.beq 1 1743392201) = false := by decide
theorem test_wf_bge : Instr.wf (.bge 1 (-1743392201)) = false := by decide
theorem test_wf_jmpa : Instr.wf (.jmpa 1 1743392201) = false := by decide
theorem test_wf_bf : Instr.wf (.bf .P .P .P 1743392201) = false := by decide
theorem test_wf_jmp : Instr.wf (.jmp 47071589414) = false := by decide
theorem test_wf_call : Instr.wf (.call (-47071589414)) = false := by decide
theorem test_wf_vins : Instr.wf (.vins 1 2 14 zeros zeros) = false := by decide
theorem test_wf_vext : Instr.wf (.vext 1 2 (-14) zeros zeros) = false := by decide
theorem test_wf_illegalMul : Instr.wf (.illegalMul (tr [P, N, N, N])) = false := by decide
theorem test_wf_illegalVadd : Instr.wf (.illegalVadd (tr [Z, N, N, P])) = false := by decide
theorem test_wf_illegalVlog : Instr.wf (.illegalVlog (tr [N, Z, N, P])) = false := by decide
theorem test_wf_illegalVred : Instr.wf (.illegalVred (tr [N, P, N, P])) = false := by decide
theorem test_wf_illegalVperm : Instr.wf (.illegalVperm (tr [Z, P, N, P])) = false := by decide
theorem test_wf_illegalVmove : Instr.wf (.illegalVmove (tr [P, P, N, P])) = false := by decide
theorem test_wf_reservedOpcode : Instr.wf (.reservedOpcode (tr [N, N, N, N])) = false := by decide
theorem test_wf_customOpcode : Instr.wf (.customOpcode (tr [Z, N, Z, P])) = false := by decide

/-! ### Decoding: one word for each constructor -/

theorem test_decode_add : decode (tr [N, N, N, N,  N, N, N,  N, Z, Z,  N, P]) = .add 14 26 2 := by decide
theorem test_decode_adds : decode (tr [N, N, N, N,  N, N, N,  N, Z, Z,  N, P, Z,  N]) = .adds 14 26 2 := by decide
theorem test_decode_adc : decode (tr [N, N, N, N,  N, N, N,  N, Z, Z,  N, P, Z,  P]) = .adc 14 26 2 := by decide
theorem test_decode_sub : decode (tr [Z, N, N, N,  N, N, N,  N, Z, Z,  N, P]) = .sub 14 26 2 := by decide
theorem test_decode_subs : decode (tr [Z, N, N, N,  N, N, N,  N, Z, Z,  N, P, Z,  N]) = .subs 14 26 2 := by decide
theorem test_decode_sbc : decode (tr [Z, N, N, N,  N, N, N,  N, Z, Z,  N, P, Z,  P]) = .sbc 14 26 2 := by decide
theorem test_decode_mul : decode (tr [P, N, N, N,  N, N, N,  N, Z, Z,  N, P]) = .mul 14 26 2 := by decide
theorem test_decode_mulh : decode (tr [P, N, N, N,  N, N, N,  N, Z, Z,  N, P, Z,  P]) = .mulh 14 26 2 := by decide
theorem test_decode_div : decode (tr [N, Z, N, N,  N, N, N,  N, Z, Z,  N, P]) = .div 14 26 2 := by decide
theorem test_decode_mod : decode (tr [Z, Z, N, N,  N, N, N,  N, Z, Z,  N, P]) = .mod 14 26 2 := by decide
theorem test_decode_neg : decode (tr [P, Z, N, N,  N, N, N,  N]) = .neg 14 26 := by decide
theorem test_decode_tand : decode (tr [N, P, N, N,  N, N, N,  N, Z, Z,  N, P]) = .tand 14 26 2 := by decide
theorem test_decode_tor : decode (tr [Z, P, N, N,  N, N, N,  N, Z, Z,  N, P]) = .tor 14 26 2 := by decide
theorem test_decode_tnot : decode (tr [P, P, N, N,  N, N, N,  N]) = .tnot 14 26 := by decide
theorem test_decode_timpl : decode (tr [N, N, Z, N,  N, N, N,  N, Z, Z,  N, P]) = .timpl 14 26 2 := by decide
theorem test_decode_cons : decode (tr [Z, N, Z, N,  N, N, N,  N, Z, Z,  N, P]) = .cons 14 26 2 := by decide
theorem test_decode_acons : decode (tr [P, N, Z, N,  N, N, N,  N, Z, Z,  N, P]) = .acons 14 26 2 := by decide
theorem test_decode_tshift : decode (tr [N, Z, Z, N,  N, N, N,  N, Z, Z,  N, P]) = .tshift 14 26 2 := by decide
theorem test_decode_tcmp : decode (tr [Z, Z, Z, N,  N, N, N,  N, Z, Z,  N, P]) = .tcmp 14 26 2 := by decide
theorem test_decode_load :
    decode (tr [P, Z, Z, N,  N, N, N,  N, Z, Z,  Z, N, N,  N, N, N,  N, N, N,  N, N, N,  N, N, N,  N, N]) =
      .load 14 26 (-64570080) := by decide
theorem test_decode_store :
    decode (tr [N, P, Z, N,  N, N, N,  N, Z, Z,  Z, N, N,  N, N, N,  N, N, N,  N, N, N,  N, N, N,  N, N]) =
      .store 14 26 (-64570080) := by decide
theorem test_decode_li :
    decode (tr [Z, P, Z, N,  N, N, N,  Z, Z, Z,  Z, N, N,  N, N, N,  N, N, N,  N, N, N,  N, N, N,  N, N]) =
      .li 14 (-64570080) := by decide
theorem test_decode_lui :
    decode (tr [P, P, Z, N,  N, N, N,  Z, Z, Z,  Z, N, N,  N, N, N,  N, N, N,  N, N, N,  N, N, N,  N, N]) =
      .lui 14 (-64570080) := by decide
theorem test_decode_addi :
    decode (tr [N, N, P, N,  N, N, N,  N, Z, Z,  Z, N, N,  N, N, N,  N, N, N,  N, N, N,  N, N, N,  N, N]) =
      .addi 14 26 (-64570080) := by decide
theorem test_decode_brt3 :
    decode (tr [Z, N, P, N,  N, N, N,  Z, N, N,  N, N, N,  N, N, N,  N, P, P,  P, P, P,  P, P, P,  P, P]) =
      .brt3 14 (-29523) 29524 := by decide
theorem test_decode_cmpi :
    decode (tr [Z, Z, P, N,  Z, Z, Z,  N, N, N,  Z, N, N,  N, N, N,  N, N, N,  N, N, N,  N, N, N,  N, N]) =
      .cmpi 14 (-64570080) := by decide
theorem test_decode_beq :
    decode (tr [P, Z, P, N,  N, N, N,  Z, P, P,  P, P, P,  P, P, P,  P, P, P,  P, P, P,  P, P, P,  P, P]) =
      .beq 14 1743392199 := by decide
theorem test_decode_bne :
    decode (tr [N, P, P, N,  N, N, N,  Z, P, P,  P, P, P,  P, P, P,  P, P, P,  P, P, P,  P, P, P,  P, P]) =
      .bne 14 1743392199 := by decide
theorem test_decode_blt :
    decode (tr [Z, P, P, N,  N, N, N,  Z, P, P,  P, P, P,  P, P, P,  P, P, P,  P, P, P,  P, P, P,  P, P]) =
      .blt 14 1743392199 := by decide
theorem test_decode_bgt :
    decode (tr [P, P, P, N,  N, N, N,  Z, P, P,  P, P, P,  P, P, P,  P, P, P,  P, P, P,  P, P, P,  P, P]) =
      .bgt 14 1743392199 := by decide
theorem test_decode_ble :
    decode (tr [N, N, N, Z,  N, N, N,  Z, P, P,  P, P, P,  P, P, P,  P, P, P,  P, P, P,  P, P, P,  P, P]) =
      .ble 14 1743392199 := by decide
theorem test_decode_bge :
    decode (tr [Z, N, N, Z,  N, N, N,  Z, P, P,  P, P, P,  P, P, P,  P, P, P,  P, P, P,  P, P, P,  P, P]) =
      .bge 14 1743392199 := by decide
theorem test_decode_jmpa :
    decode (tr [P, N, N, Z,  N, N, N,  Z, P, P,  P, P, P,  P, P, P,  P, P, P,  P, P, P,  P, P, P,  P, P]) =
      .jmpa 14 1743392199 := by decide
theorem test_decode_bf :
    decode (tr [N, Z, N, Z,  P, N, Z,  Z, P, P,  P, P, P,  P, P, P,  P, P, P,  P, P, P,  P, P, P,  P, P]) =
      .bf .P .N .Z 1743392199 := by decide
theorem test_decode_jmp :
    decode (tr [Z, Z, N, Z,  Z, P, P,  P, P, P,  P, P, P,  P, P, P,  P, P, P,  P, P, P,  P, P, P,  P, P]) =
      .jmp 47071589412 := by decide
theorem test_decode_call :
    decode (tr [P, Z, N, Z,  Z, P, P,  P, P, P,  P, P, P,  P, P, P,  P, P, P,  P, P, P,  P, P, P,  P, P]) =
      .call 47071589412 := by decide
theorem test_decode_csrr :
    decode (tr [N, P, N, Z,  N, N, N,  Z, Z, Z,  Z, P, N]) =
      .csrr 14 .ipriority zeros zeros := by decide
theorem test_decode_csrw :
    decode (tr [Z, P, N, Z,  Z, Z, Z,  N, N, N,  Z, P, N]) =
      .csrw .ipriority 14 zeros zeros := by decide
theorem test_decode_csrx :
    decode (tr [P, P, N, Z,  N, N, N,  N, Z, Z,  Z, P, N]) =
      .csrx 14 26 .ipriority zeros := by decide
theorem test_decode_ecall : decode (tr [N, N, Z, Z]) = .ecall := by decide
theorem test_decode_hcall : decode (tr [N, N, Z, Z,  Z, Z, Z,  Z, Z, Z,  P]) = .hcall := by decide
theorem test_decode_dbgbrk : decode (tr [N, N, Z, Z,  Z, Z, Z,  Z, Z, Z,  N]) = .dbgbrk := by decide
theorem test_decode_iret : decode (tr [Z, N, Z, Z]) = .iret := by decide
theorem test_decode_tsel :
    decode (tr [P, N, Z, Z,  N, N, N,  N, Z, Z,  N, P, Z,  P, P, P]) =
      .tsel 14 26 2 13 := by decide
theorem test_decode_nop : decode (tr [N, Z, Z, Z]) = .nop := by decide
theorem test_decode_halt : decode (tr [Z, Z, Z, Z]) = .halt := by decide
theorem test_decode_tget : decode (tr [P, Z, Z, Z,  N, N, N,  N, Z, Z,  N, P]) = .tget 14 26 2 := by decide
theorem test_decode_tsetn : decode (tr [N, P, Z, Z,  N, N, N,  N, Z, Z,  N, P, Z,  N]) = .tsetn 14 26 2 := by decide
theorem test_decode_tsetz : decode (tr [N, P, Z, Z,  N, N, N,  N, Z, Z,  N, P]) = .tsetz 14 26 2 := by decide
theorem test_decode_tsetp : decode (tr [N, P, Z, Z,  N, N, N,  N, Z, Z,  N, P, Z,  P]) = .tsetp 14 26 2 := by decide
theorem test_decode_tsign : decode (tr [Z, P, Z, Z,  N, N, N,  N]) = .tsign 14 26 := by decide
theorem test_decode_cmp : decode (tr [P, P, Z, Z,  Z, Z, Z,  N, N, N,  N]) = .cmp 14 26 := by decide
theorem test_decode_tabs : decode (tr [N, N, P, Z,  N, N, N,  N]) = .tabs 14 26 := by decide
theorem test_decode_tmin : decode (tr [Z, N, P, Z,  N, N, N,  N]) = .tmin 14 26 := by decide
theorem test_decode_tmax : decode (tr [P, N, P, Z,  N, N, N,  N]) = .tmax 14 26 := by decide
theorem test_decode_fadd : decode (tr [N, Z, P, Z,  N, N, N,  N, Z, Z,  N, P]) = .fadd 14 26 2 := by decide
theorem test_decode_fsub : decode (tr [Z, Z, P, Z,  N, N, N,  N, Z, Z,  N, P]) = .fsub 14 26 2 := by decide
theorem test_decode_fmul : decode (tr [P, Z, P, Z,  N, N, N,  N, Z, Z,  N, P]) = .fmul 14 26 2 := by decide
theorem test_decode_fdiv : decode (tr [N, P, P, Z,  N, N, N,  N, Z, Z,  N, P]) = .fdiv 14 26 2 := by decide
theorem test_decode_fcmp : decode (tr [Z, P, P, Z,  Z, Z, Z,  N, N, N,  N]) = .fcmp 14 26 := by decide
theorem test_decode_ficvt : decode (tr [P, P, P, Z,  N, N, N,  N]) = .ficvt 14 26 := by decide
theorem test_decode_fcvti : decode (tr [P, P, P, Z,  N, N, N,  N, Z, Z,  Z, Z, Z,  P]) = .fcvti 14 26 := by decide
theorem test_decode_fcvtiz : decode (tr [P, P, P, Z,  N, N, N,  N, Z, Z,  Z, Z, Z,  N]) = .fcvtiz 14 26 := by decide
theorem test_decode_vadd : decode (tr [Z, N, N, P,  N, N, N,  N, Z, Z,  N, P]) = .vadd 14 26 2 := by decide
theorem test_decode_vsub : decode (tr [Z, N, N, P,  N, N, N,  N, Z, Z,  N, P, Z,  N]) = .vsub 14 26 2 := by decide
theorem test_decode_vmul : decode (tr [P, N, N, P,  N, N, N,  N, Z, Z,  N, P]) = .vmul 14 26 2 := by decide
theorem test_decode_vand : decode (tr [N, Z, N, P,  N, N, N,  N, Z, Z,  N, P]) = .vand 14 26 2 := by decide
theorem test_decode_vor : decode (tr [N, Z, N, P,  N, N, N,  N, Z, Z,  N, P, Z,  P]) = .vor 14 26 2 := by decide
theorem test_decode_vimpl :
    decode (tr [N, Z, N, P,  N, N, N,  N, Z, Z,  N, P, Z,  Z, P]) =
      .vimpl 14 26 2 := by decide
theorem test_decode_vnot : decode (tr [N, Z, N, P,  N, N, N,  N, Z, Z,  Z, Z, Z,  P, P]) = .vnot 14 26 := by decide
theorem test_decode_vcons :
    decode (tr [N, Z, N, P,  N, N, N,  N, Z, Z,  N, P, Z,  Z, Z, P]) =
      .vcons 14 26 2 := by decide
theorem test_decode_vacons :
    decode (tr [N, Z, N, P,  N, N, N,  N, Z, Z,  N, P, Z,  P, Z, P]) =
      .vacons 14 26 2 := by decide
theorem test_decode_vsel :
    decode (tr [Z, Z, N, P,  N, N, N,  N, Z, Z,  N, P, Z,  P, P, P]) =
      .vsel 14 26 2 13 := by decide
theorem test_decode_vcmp : decode (tr [P, Z, N, P,  N, N, N,  N, Z, Z,  N, P]) = .vcmp 14 26 2 := by decide
theorem test_decode_vredSum : decode (tr [N, P, N, P,  N, N, N,  N]) = .vredSum 14 26 := by decide
theorem test_decode_vredSign :
    decode (tr [N, P, N, P,  N, N, N,  N, Z, Z,  Z, Z, Z,  P]) =
      .vredSign 14 26 := by decide
theorem test_decode_vredCons :
    decode (tr [N, P, N, P,  N, N, N,  N, Z, Z,  Z, Z, Z,  Z, P]) =
      .vredCons 14 26 := by decide
theorem test_decode_vredLst :
    decode (tr [N, P, N, P,  N, N, N,  N, Z, Z,  Z, Z, Z,  P, P]) =
      .vredLst 14 26 := by decide
theorem test_decode_vredMst :
    decode (tr [N, P, N, P,  N, N, N,  N, Z, Z,  Z, Z, Z,  Z, Z, P]) =
      .vredMst 14 26 := by decide
theorem test_decode_vredAnd :
    decode (tr [N, P, N, P,  N, N, N,  N, Z, Z,  Z, Z, Z,  P, Z, P]) =
      .vredAnd 14 26 := by decide
theorem test_decode_vredOr :
    decode (tr [N, P, N, P,  N, N, N,  N, Z, Z,  Z, Z, Z,  Z, P, P]) =
      .vredOr 14 26 := by decide
theorem test_decode_vrotl : decode (tr [Z, P, N, P,  N, N, N,  N, Z, Z,  N, P]) = .vrotl 14 26 2 := by decide
theorem test_decode_vrotr : decode (tr [Z, P, N, P,  N, N, N,  N, Z, Z,  N, P, Z,  P]) = .vrotr 14 26 2 := by decide
theorem test_decode_vshl : decode (tr [Z, P, N, P,  N, N, N,  N, Z, Z,  N, P, Z,  Z, P]) = .vshl 14 26 2 := by decide
theorem test_decode_vshr : decode (tr [Z, P, N, P,  N, N, N,  N, Z, Z,  N, P, Z,  P, P]) = .vshr 14 26 2 := by decide
theorem test_decode_vrev : decode (tr [Z, P, N, P,  N, N, N,  N, Z, Z,  Z, Z, Z,  Z, Z, P]) = .vrev 14 26 := by decide
theorem test_decode_vshuf :
    decode (tr [Z, P, N, P,  N, N, N,  N, Z, Z,  N, P, Z,  P, Z, P]) =
      .vshuf 14 26 2 := by decide
theorem test_decode_vmovGv : decode (tr [P, P, N, P,  N, N, N,  N]) = .vmovGv 14 26 := by decide
theorem test_decode_vmovVg : decode (tr [P, P, N, P,  N, N, N,  N, Z, Z,  Z, Z, Z,  P]) = .vmovVg 14 26 := by decide
theorem test_decode_vmovVv :
    decode (tr [P, P, N, P,  N, N, N,  N, Z, Z,  Z, Z, Z,  Z, P]) =
      .vmovVv 14 26 := by decide
theorem test_decode_vbcast :
    decode (tr [P, P, N, P,  N, N, N,  N, Z, Z,  Z, Z, Z,  P, P]) =
      .vbcast 14 26 := by decide
theorem test_decode_vins :
    decode (tr [P, P, N, P,  N, N, N,  N, Z, Z,  Z, Z, Z,  Z, Z, P,  P, P, P]) =
      .vins 14 26 13 zeros zeros := by decide
theorem test_decode_vext :
    decode (tr [P, P, N, P,  N, N, N,  N, Z, Z,  Z, Z, Z,  P, Z, P,  P, P, P]) =
      .vext 14 26 13 zeros zeros := by decide
theorem test_decode_illegalMul :
    decode (tr [P, N, N, N,  Z, P, Z,  P, Z, Z,  N, P, Z,  N]) =
      .illegalMul (tr [P, N, N, N,  Z, P, Z,  P, Z, Z,  N, P, Z,  N]) := by decide
theorem test_decode_illegalVadd :
    decode (tr [Z, N, N, P,  Z, P, Z,  P, Z, Z,  N, P, Z,  P]) =
      .illegalVadd (tr [Z, N, N, P,  Z, P, Z,  P, Z, Z,  N, P, Z,  P]) := by decide
theorem test_decode_illegalVlog :
    decode (tr [N, Z, N, P,  Z, P, Z,  P, Z, Z,  N, P, Z,  N]) =
      .illegalVlog (tr [N, Z, N, P,  Z, P, Z,  P, Z, Z,  N, P, Z,  N]) := by decide
theorem test_decode_illegalVred :
    decode (tr [N, P, N, P,  P, Z, P,  P, Z, Z,  Z, Z, Z,  P, P, P]) =
      .illegalVred (tr [N, P, N, P,  P, Z, P,  P, Z, Z,  Z, Z, Z,  P, P, P]) := by decide
theorem test_decode_illegalVperm :
    decode (tr [Z, P, N, P,  Z, P, Z,  P, Z, Z,  N, P, Z,  N, N, N]) =
      .illegalVperm (tr [Z, P, N, P,  Z, P, Z,  P, Z, Z,  N, P, Z,  N, N, N]) := by decide
theorem test_decode_illegalVmove :
    decode (tr [P, P, N, P,  Z, P, Z,  P, Z, Z,  Z, Z, Z,  Z, N]) =
      .illegalVmove (tr [P, P, N, P,  Z, P, Z,  P, Z, Z,  Z, Z, Z,  Z, N]) := by decide
theorem test_decode_reservedOpcode :
    decode (tr [N, N, N, P,  Z, Z, Z,  Z, Z, Z,  Z, Z, P]) =
      .reservedOpcode (tr [N, N, N, P,  Z, Z, Z,  Z, Z, Z,  Z, Z, P]) := by decide
theorem test_decode_customOpcode :
    decode (tr [P, P, P, P,  P, P, P,  P, P, P,  P, P, P,  P, P, P,  P, P, P,  P, P, P,  P, P, P,  P, P]) =
      .customOpcode (tr [P, P, P, P,  P, P, P,  P, P, P,  P, P, P,  P, P, P,  P, P, P,  P, P, P,  P, P, P,  P, P]) := by decide

/-! ### Arithmetic, logic, memory, immediates, CSRs, the special group (sections 2.2 to 2.7) -/

theorem test_add_carries :
    result (.add 3 1 2) (start [(1, 3812798742493), (2, 1)]) 3 =
      some (-3812798742493, -1, 1) := by decide
theorem test_adds_saturates :
    result (.adds 3 1 2) (start [(1, (-3812798742493)), (2, (-5))]) 3 =
      some (-3812798742493, -1, 0) := by decide +kernel
theorem test_adc_takes_carry :
    result (.adc 3 1 2) { start [(1, 0), (2, 0)] with flagCarry := .N } 3 =
      some (-1, -1, 0) := by decide
theorem test_sub_borrows :
    result (.sub 3 1 2) (start [(1, (-3812798742493)), (2, 1)]) 3 =
      some (3812798742493, 1, -1) := by decide
theorem test_subs_saturates :
    result (.subs 3 1 2) (start [(1, 3812798742493), (2, (-1))]) 3 =
      some (3812798742493, 1, 0) := by decide +kernel
theorem test_sbc_takes_carry :
    result (.sbc 3 1 2) { start [(1, 5), (2, 2)] with flagCarry := .N } 3 =
      some (4, 1, 0) := by decide
theorem test_mul_low :
    result (.mul 3 1 2) (start [(1, 123456789), (2, 987654321)]) 3 =
      some (-672672306861, -1, 0) := by decide
theorem test_mulh_high :
    result (.mulh 3 1 2) (start [(1, 123456789), (2, 987654321)]) 3 =
      some (15990, 1, 0) := by decide
theorem test_div_nearest : result (.div 3 1 2) (start [(1, 8), (2, 3)]) 3 = some (3, 1, 0) := by decide +kernel
theorem test_div_tie_to_zero :
    result (.div 3 1 2) (start [(1, (-7)), (2, 2)]) 3 =
      some (-3, -1, 0) := by decide +kernel
theorem test_mod_negative : result (.mod 3 1 2) (start [(1, 14), (2, 9)]) 3 = some (-4, -1, 0) := by decide +kernel
theorem test_neg : result (.neg 3 1) (start [(1, (-3812798742493))]) 3 = some (3812798742493, 1, 0) := by decide
theorem test_tand_kleene :
    result (.tand 3 1 2) (start [(1, (-6056)), (2, (-9464))]) 3 =
      some (-9728, -1, 0) := by decide
theorem test_tand_b3 :
    result (.tand 3 1 2) { start [(1, (-6056)), (2, (-9464))] with lmode := word 1 } 3 =
      some (-7298, -1, 0) := by decide
theorem test_tor_kleene :
    result (.tor 3 1 2) (start [(1, (-6056)), (2, (-9464))]) 3 =
      some (-5792, -1, 0) := by decide
theorem test_tnot_heyting :
    result (.tnot 3 1) { start [(1, (-6056)), (2, (-9464))] with lmode := word (-1), status := word (-10) } 3 =
      some (-3812798728867, -1, 0) := by decide
theorem test_timpl_rm3 :
    result (.timpl 3 1 2) { start [(1, (-6056)), (2, (-9464))] with lmode := word (-1), status := word 8 } 3 =
      some (3874, 1, 0) := by decide
theorem test_timpl_lukasiewicz :
    result (.timpl 3 1 2) { start [(1, (-6056)), (2, (-9464))] with lmode := word (-1) } 3 =
      some (3812798738821, 1, 0) := by decide
theorem test_cons :
    result (.cons 3 1 2) { start [(1, (-6056)), (2, (-9464))] with lmode := word 1 } 3 =
      some (-6560, -1, 0) := by decide
theorem test_acons : result (.acons 3 1 2) (start [(1, (-6056)), (2, (-9464))]) 3 = some (2400, 1, 0) := by decide
theorem test_tcmp : result (.tcmp 3 1 2) (start [(1, (-6056)), (2, (-9464))]) 3 = some (2688, 1, 0) := by decide
theorem test_tshift_right_rounds : result (.tshift 3 1 2) (start [(1, 14), (2, (-1))]) 3 = some (5, 1, 0) := by decide
theorem test_tshift_left_wraps :
    result (.tshift 3 1 2) (start [(1, 3812798742493), (2, 1)]) 3 =
      some (3812798742492, 1, 0) := by decide
theorem test_load_wraps :
    result (.load 10 2 1) { start [(2, 3812798742493)] with mem := [(-H, word 9)] } 10 =
      some (9, 0, 0) := by decide +kernel
theorem test_li_least : result (.li 10 (-64570081)) (start []) 10 = some (-64570081, 0, 0) := by decide
theorem test_lui : result (.lui 10 64570081) (start []) 10 = some (3812798712969, 0, 0) := by decide
theorem test_addi_wraps :
    result (.addi 5 6 1) (start [(6, 3812798742493)]) 5 =
      some (-3812798742493, 0, 0) := by decide
theorem test_cmpi_borrows :
    result (.cmpi 10 64570081) (start [(10, (-3812798742493))]) 10 =
      some (-3812798742493, -1, -1) := by decide
theorem test_cmp_true_sign :
    result (.cmp 10 11) (start [(10, 3812798742493), (11, (-1))]) 11 =
      some (-1, 1, 1) := by decide
theorem test_tsel_positive :
    result (.tsel 5 10 11 26) { start [(10, 111), (11, 222), (26, 444)] with flagSign := .P } 5 =
      some (444, 1, 0) := by decide
theorem test_tsel_negative :
    result (.tsel 5 10 11 12) { start [(10, 111), (11, 222), (12, 333)] with flagSign := .N } 5 =
      some (111, -1, 0) := by decide
theorem test_tget : result (.tget 6 5 7) (start [(5, 100), (7, 2)]) 6 = some (-1, 0, 0) := by decide
theorem test_tsetn : result (.tsetn 6 5 7) (start [(5, 100), (7, 4)]) 6 = some (-62, 0, 0) := by decide
theorem test_tsetz : result (.tsetz 6 5 7) (start [(5, 100), (7, 2)]) 6 = some (109, 0, 0) := by decide
theorem test_tsetp : result (.tsetp 6 5 7) (start [(5, 100), (7, 26)]) 6 = some (2541865828429, 0, 0) := by decide
theorem test_tsign : result (.tsign 6 5) (start [(5, (-62))]) 6 = some (-1, 0, 0) := by decide
theorem test_tabs : result (.tabs 6 5) (start [(5, (-62))]) 6 = some (62, 0, 0) := by decide
theorem test_tmin : result (.tmin 5 6) (start [(6, 13)]) 5 = some (0, 0, 0) := by decide
theorem test_tmax : result (.tmax 5 6) (start [(6, (-13))]) 5 = some (0, 0, 0) := by decide
theorem test_csrr_epc :
    result (.csrr 5 .epc zeros zeros) { start [] with epc := word 777 } 5 =
      some (777, 0, 0) := by decide
theorem test_csrr_mpu_cfg : result (.csrr 5 .mpuCfg zeros zeros) (start []) 5 = some (-2187, 0, 0) := by decide
theorem test_csrr_reserved :
    result (.csrr 5 (.reserved 0) zeros zeros) (start [(5, 9)]) 5 =
      some (0, 0, 0) := by decide
theorem test_csrx_swaps :
    result (.csrx 5 5 .evec zeros) { start [(5, 900)] with evec := word 40 } 5 =
      some (40, 0, 0) := by decide
theorem test_csrw_flags : result (.csrw .flags 5 zeros zeros) (start [(5, 23)]) 5 = some (23, -1, -1) := by decide

/-! ### Floating point (section 2.8) -/

theorem test_t26f_decode : decodeT26f (word 925256982854) = .normal 100 := by decide +kernel
theorem test_t26f_decode_negative : decodeT26f (word (-687768223097)) = .normal (-5 / 3) := by decide +kernel
theorem test_fadd : tfpAdd (.normal 100) (.normal (1 / 3)) = word 925386123017 := by decide +kernel
theorem test_fsub_nar : tfpSub .inf .inf = narWord := by decide
theorem test_fmul_nar : tfpMul .zero .inf = narWord := by decide
theorem test_fdiv : tfpDiv (.normal 1) (.normal 3) = word 541323278255 := by decide +kernel
theorem test_fdiv_by_zero : tfpDiv (.normal 1) .zero = infWord := by decide
theorem test_tfp_flags_of_nar : tfpFlags narWord = (.Z, .N) := by decide
theorem test_fcmp : tfpCompare (.normal (-1)) (.normal (1 / 3)) = (.N, .Z) := by decide +kernel
theorem test_fcvti : roundNearest (-5 / 3) = -2 := by decide +kernel
theorem test_fcvtiz : roundToZero (-5 / 3) = -1 := by decide +kernel

/-! ### Branches (section 2.5) -/

theorem test_beq : target (.beq 10 7) (start [(10, 0)]) = some 107 := by decide
theorem test_bne : target (.bne 10 7) (start [(10, (-3))]) = some 107 := by decide
theorem test_blt : target (.blt 10 7) (start [(10, (-3))]) = some 107 := by decide
theorem test_bgt : target (.bgt 10 7) (start [(10, 0)]) = some 101 := by decide
theorem test_ble : target (.ble 10 7) (start [(10, 0)]) = some 107 := by decide
theorem test_bge : target (.bge 10 7) (start [(10, (-3))]) = some 101 := by decide
theorem test_jmpa : target (.jmpa 5 (-20)) (start [(5, 1000)]) = some 980 := by decide
theorem test_jmp : target (.jmp (-5)) (start []) = some 95 := by decide
theorem test_call : target (.call 20) (start []) = some 120 := by decide
theorem test_bf_negative : target (.bf .P .Z .Z 6) { start [] with flagSign := .N } = some 106 := by decide
theorem test_bf_n_selects_nothing : target (.bf .N .P .N 6) { start [] with flagSign := .N } = some 101 := by decide
theorem test_brt3_z : target (.brt3 5 (-2) 3) (start [(5, 3)]) = some 98 := by decide
theorem test_brt3_n : target (.brt3 5 (-2) 3) (start [(5, 2)]) = some 103 := by decide

/-! ### Vectors (section 2.9) -/

/-- v1 of section 2.9. -/
def laneA : Word := tr [P, Z, N, P, Z, N, P, Z, N, P, Z, N, P, Z, N, P, Z, N, P, Z, N, P, Z, N, P, Z, N]
/-- v2 of section 2.9. -/
def laneB : Word := tr [P, P, P, Z, Z, Z, N, N, N, P, P, P, Z, Z, Z, N, N, N, P, P, P, Z, Z, Z, N, N, N]
/-- v1 of the reduction rows. -/
def laneR : Word := tr [P, P, Z, P, N, P, Z, Z, P]
/-- v1 of the permutation rows. -/
def laneP : Word := tr [P, N, Z, P, P]

theorem test_vadd :
    lanes (.vadd 3 1 2) (vstart laneA laneB) =
      some [P, P, Z, P, Z, N, Z, N, N] := by decide
theorem test_vsub :
    lanes (.vsub 3 1 2) (vstart laneA laneB) =
      some [Z, N, N, P, Z, N, P, P, Z] := by decide
theorem test_vmul :
    lanes (.vmul 3 1 2) (vstart laneA laneB) =
      some [P, Z, N, Z, Z, Z, N, Z, P] := by decide
theorem test_vand :
    lanes (.vand 3 1 2) { vstart laneA laneB with lmode := word 1 } =
      some [P, Z, N, Z, Z, Z, N, Z, N] := by decide
theorem test_vor :
    lanes (.vor 3 1 2) (vstart laneA laneB) =
      some [P, P, P, P, Z, Z, P, Z, N] := by decide
theorem test_vimpl :
    lanes (.vimpl 3 1 2) { vstart laneA laneB with lmode := word (-1) } =
      some [P, P, P, Z, P, P, N, Z, P] := by decide
theorem test_vnot :
    lanes (.vnot 3 1) { vstart laneA laneB with lmode := word (-1), status := word (-10) } =
      some [N, N, P, N, N, P, N, N, P] := by decide
theorem test_vcons :
    lanes (.vcons 3 1 2) (vstart laneA laneB) =
      some [P, Z, Z, Z, Z, Z, Z, Z, N] := by decide
theorem test_vacons :
    lanes (.vacons 3 1 2) (vstart laneA laneB) =
      some [Z, N, Z, N, Z, P, Z, P, Z] := by decide
theorem test_vcmp :
    lanes (.vcmp 3 1 2) (vstart laneA laneB) =
      some [Z, N, N, P, Z, N, P, P, Z] := by decide
theorem test_vrotl :
    lanes (.vrotl 3 1 2) (vstart laneP (tr [N, P, Z, P, Z, P, P, P, P, P, P, P, P, P, P, P, P, P, P, P, P, P, P, P, P, P, P])) =
      some [Z, Z, P, N, Z, P, P, Z, Z] := by decide
theorem test_vrotr :
    lanes (.vrotr 3 1 2) (vstart laneP (word 2)) =
      some [Z, P, P, Z, Z, Z, Z, Z, Z] := by decide
theorem test_vshl :
    lanes (.vshl 3 1 2) (vstart laneP (word 2)) =
      some [Z, Z, P, N, Z, P, P, Z, Z] := by decide
theorem test_vshr :
    lanes (.vshr 3 1 2) (vstart laneP (word 1)) =
      some [N, Z, P, P, Z, Z, Z, Z, Z] := by decide
theorem test_vrev :
    lanes (.vrev 3 1) (vstart laneP laneB) =
      some [Z, Z, Z, Z, Z, Z, Z, Z, Z] := by decide
theorem test_vmov_vv :
    lanes (.vmovVv 3 1) (vstart laneA laneB) =
      some [P, Z, N, P, Z, N, P, Z, N] := by decide
theorem test_vshuf :
    lanes (.vshuf 3 1 2) (vstart laneA (tr [N, P, Z, P, Z, Z, Z, Z, Z, N, Z, Z, N, N, N, P, P, P, Z, P, Z, Z, Z, P, Z, N, Z])) =
      some [N, Z, P, N, N, Z, P, P, P] := by decide
theorem test_vsel :
    lanes (.vsel 3 1 2 4) ((vstart laneA laneB).setVreg 4 (tr [N, Z, P, N, Z, P, N, Z, P])) =
      some [P, Z, P, P, Z, Z, P, Z, N] := by decide
theorem test_vmov_gv :
    lanes (.vmovGv 3 5) (start [(5, 100)]) = some [P, Z, N, P, P, Z, Z, Z, Z] := by decide
theorem test_vbcast :
    lanes (.vbcast 3 5) (start [(5, 8)]) = some [N, N, N, N, N, N, N, N, N] := by decide
theorem test_vins :
    lanes (.vins 3 5 8 zeros zeros) ((start [(5, 4)]).setVreg 3 laneB) = some [P, P, P, Z, Z, Z, N, N, P] := by decide
theorem test_vred_sum : result (.vredSum 10 1) (vstart laneR laneB) 10 = some (4, 0, 0) := by decide
theorem test_vred_sign : result (.vredSign 10 1) (vstart laneR laneB) 10 = some (1, 0, 0) := by decide
theorem test_vred_cons : result (.vredCons 10 1) (vstart laneR laneB) 10 = some (0, 0, 0) := by decide
theorem test_vred_lst : result (.vredLst 10 1) (vstart laneR laneB) 10 = some (-1, 0, 0) := by decide
theorem test_vred_mst : result (.vredMst 10 1) (vstart laneR laneB) 10 = some (1, 0, 0) := by decide
theorem test_vred_and_b3 : result (.vredAnd 10 1) { vstart laneR laneB with lmode := word 1 } 10 = some (0, 0, 0) := by decide
theorem test_vred_or : result (.vredOr 10 1) (vstart laneR laneB) 10 = some (1, 0, 0) := by decide
theorem test_vmov_vg : result (.vmovVg 10 1) (vstart laneA laneB) 10 = some (-2346337687688, 0, 0) := by decide
theorem test_vext : result (.vext 10 1 2 zeros zeros) (vstart laneA laneB) 10 = some (-1, 0, 0) := by decide

/-! ### The kernel of R409: its two printed words, and the lane effects its comments state -/

theorem test_r409_decode_vmul : decode (tr [P, N, N, P, Z, P, Z, P, Z, Z, N, P]) = .vmul 3 1 2 := by decide
theorem test_r409_decode_vred : decode (tr [N, P, N, P, P, Z, P, Z, P, Z, Z, Z, Z, P]) = .vredSign 10 3 := by decide
/-- `v3[i] ← w[i] × a[i]` for all nine pairs of trits. -/
theorem test_r409_vmul :
    lanes (decode (tr [P, N, N, P, Z, P, Z, P, Z, Z, N, P])) (vstart laneA laneB) = some [P, Z, N, Z, Z, Z, N, Z, P] := by decide
/-- `a0 ← sign(Σ v3[i])`: two lanes N and the others Z give −1; FLAGS untouched. -/
theorem test_r409_vred :
    result (decode (tr [N, P, N, P, P, Z, P, Z, P, Z, Z, Z, Z, P])) (State.reset.setVreg 3 (word (-4))) 10 = some (-1, 0, 0) := by decide

/-! ### Scenarios of 95_test_vectors.md section 2.6 and 2.10, one instruction or one step each -/

/-- Numbers read off the next state, `none` where there is none. -/
def after (o : Result) (f : State → List Int) : Option (List Int) := (nextOf o).map f

/-- The region the user-mode rows start with: base 81, size 4, as given permissions. -/
def region (r w x : Trit) : MpuDesc :=
  { base := word 81, permR := r, permW := w, permX := x, size := enc 4 4, valid := .P }

/-- User mode at address 100, EVEC 40, one region in force. -/
def user (regs : List (Reg × Int)) : State :=
  { start regs with status := word (-2), evec := word 40, mpu := State.reset.mpu.set 0 (region .P .Z .P) }

/-- `s` with a word where the next fetch reads it. -/
def placed (w : List Trit) (s : State) : State := { s with mem := s.mem.write s.pc.val (tr w) }

/-- Lines 3 and 5 asserted at every boundary to come (scenario X10). -/
def lines35 : IrqLines := ((Vector.replicate 9 false).set 3 true).set 5 true

/-- Scenario X10: line 3 of priority 1, line 5 of priority 2. -/
def arbitration : State :=
  { user [] with status := word 4, ienable := lines35, ipriority := word 28717497, irqFeed := [lines35, lines35] }

theorem test_x1_nested_entry :
    after (exec (.div 3 1 0)
        { start [] with status := word 23, epc := word 500, esave := word (-2), evec := word 40 })
      (fun t => [t.pc.val, t.status.val, t.ecause2.val, t.epc2.val, t.esave2.val, t.epc.val, t.esave.val]) =
      some [40, -31, -13, 100, 23, 500, -2] := by decide
theorem test_x2_machine_check_reset :
    after (exec (.mod 3 1 0)
        { start [(9, 1234)] with status := word (-31), evec := word 40, lmode := word 1, flagSign := .P, mpuSelect := 2 })
      (fun t => [t.pc.val, t.status.val, t.evec.val, t.lmode.val, t.flagSign.val, (t.mpuSelect.val : Int), (t.reg 9).val]) =
      some [0, -1, 0, 0, 0, 0, 1234] := by decide
theorem test_x3_fetch_of_nothing :
    after (step { start [] with
        pc := word 5000, evec := word 40, memMap := [{ lo := -999, hi := 999, kind := .memory }] })
      (fun t => [t.pc.val, t.status.val, t.ecause.val, t.epc.val, t.etval.val, t.esave.val]) =
      some [40, 23, -11, 5000, 5000, -1] := by decide
theorem test_x4_user_store_denied :
    after (exec (.store 10 2 0) (user [(2, 120)]))
      (fun t => [t.pc.val, t.status.val, t.ecause.val, t.epc.val, t.etval.val, t.esave.val]) =
      some [40, 23, -8, 100, 120, -2] := by decide +kernel
theorem test_x5_user_load_outside :
    after (exec (.load 10 2 0) (user [(2, 162)])) (fun t => [t.pc.val, t.ecause.val, t.etval.val]) =
      some [40, -9, 162] := by decide +kernel
theorem test_x6_user_load_last :
    after (exec (.load 10 2 0) { user [(2, 161)] with mem := [(161, word 88)] })
      (fun t => [(t.reg 10).val, t.pc.val]) = some [88, 101] := by decide +kernel
theorem test_x9_user_fetch_denied :
    after (step { user [] with mpu := State.reset.mpu.set 0 (region .P .Z .Z) })
      (fun t => [t.pc.val, t.ecause.val, t.etval.val]) = some [40, -7, 100] := by decide
theorem test_x10_arbitration :
    after (step arbitration) (fun t => [t.pc.val, t.ecause.val, t.epc.val, t.esave.val]) =
      some [40, 25, 100, 4] := by decide
theorem test_x11_tie :
    after (step { arbitration with ipriority := zeroWord }) (fun t => [t.ecause.val]) = some [23] := by decide
theorem test_x12_masked :
    after (step (placed [N] { arbitration with status := word 1 })) (fun t => [t.pc.val, t.status.val]) =
      some [101, 1] := by decide
theorem test_x15_software_interrupt :
    after (step { arbitration with
        irqFeed := [], ienable := (Vector.replicate 9 false).set 2 true, swpend := (Vector.replicate 9 false).set 2 true })
      (fun t => [t.ecause.val, t.epc.val, if t.swpend[2] then 1 else 0]) = some [22, 100, 1] := by decide
theorem test_ecall_from_user :
    after (exec .ecall (user [])) (fun t => [t.ecause.val, t.epc.val, t.etval.val, t.esave.val, t.status.val]) =
      some [0, 100, 0, -2, 23] := by decide
theorem test_hcall : after (exec .hcall (start [])) (fun t => [t.ecause.val]) = some [1] := by decide
theorem test_dbgbrk : after (exec .dbgbrk (start [])) (fun t => [t.ecause.val]) = some [2] := by decide
theorem test_iret :
    after (exec .iret { start [] with status := word (-31), epc2 := word 600, esave2 := word 23 })
      (fun t => [t.pc.val, t.status.val]) = some [600, 23] := by decide
theorem test_iret_at_depth_Z : exec .iret (start []) = .fault .iretAtDepthZ := by rfl
theorem test_nop : after (exec .nop (start [])) (fun t => [t.pc.val]) = some [101] := by decide
theorem test_halt : (nextOf (exec .halt (start []))).map (fun t => (t.halted, t.pc.val)) = some (true, 100) := by decide
theorem test_store :
    after (exec (.store 10 2 (-3)) (start [(2, 1000), (10, 77)])) (fun t => [(t.mem.read 997).val]) =
      some [77] := by decide +kernel
theorem test_csrr_status_in_user_mode :
    after (exec (decode (tr [N, P, N, Z, N, N, P, Z, Z, Z, P, N, P])) (user [(5, 1)]))
      (fun t => [t.ecause.val, t.etval.val, t.esave.val, (t.reg 5).val]) = some [-10, 413741, -2, 1] := by decide
theorem test_csrw_mpu_select_out_of_range :
    after (exec (decode (tr [Z, P, N, Z, Z, Z, Z, N, N, P, N])) (start [(5, 9)]))
      (fun t => [t.ecause.val, t.etval.val, (t.mpuSelect.val : Int)]) = some [-10, -48120, 0] := by decide
theorem test_csrw_mpu_cfg :
    after (exec (.csrw .mpuCfg 5 zeros zeros) (start [(5, 2308)]))
      (fun t => [t.mpu[0].permW.val, t.mpu[0].size.val, t.mpu[0].valid.val, (t.csrRead .mpuCfg).1.val]) =
      some [1, 4, 1, 2308] := by decide
theorem test_csrw_ipending :
    after (exec (.csrw .ipending 5 zeros zeros)
        { start [(5, 8)] with swpend := ((Vector.replicate 9 false).set 0 true).set 3 true })
      (fun t => t.swpend.toList.map fun b => if b then 1 else 0) = some [1, 0, 1, 0, 0, 0, 0, 0, 0] := by decide
theorem test_custom_opcode :
    after (exec (decode (tr [P, P, P, P])) (start [])) (fun t => [t.ecause.val, t.etval.val]) =
      some [-10, 40] := by decide
theorem test_vext_negative_lane :
    after (exec (decode (tr [P, P, N, P, P, Z, P, P, Z, Z, Z, Z, Z, P, Z, P, N])) (start [(10, 9)]))
      (fun t => [t.ecause.val, t.etval.val, (t.reg 10).val]) = some [-10, -27100472, 9] := by decide
theorem test_vlog_unassigned_selector :
    after (exec (decode (tr [N, Z, N, P, Z, P, Z, P, Z, Z, N, P, Z, N])) (start []))
      (fun t => [t.ecause.val, t.etval.val]) = some [-10, -1473778] := by decide
theorem test_with_fetch_word_runs :
    after (step (State.reset.withFetchWord 27 7625597484986)) (fun t => [t.pc.val]) = some [1] := by decide

/-! ### Witnesses: for each statement with hypotheses, operands and a state that meet them -/

theorem exists_next {r : Result} (h : (nextOf r).isSome = true) : ∃ t, r = .next t := by
  cases r with
  | next t => exact ⟨t, rfl⟩
  | fault f => cases h
  | refused f => cases h

theorem witness_DivideToNearest : ((start [(2, -3)]).reg 2).val ≠ 0 := by decide
theorem witness_DivideByZeroTraps : ((start [(1, 7)]).reg 2).val = 0 := by decide

theorem witness_LogicModeSelection :
    (start []).lmode.get 0 = .Z ∧ ({ start [] with lmode := word 1 } : State).lmode.get 0 = .P ∧
      (word (-1)).get 0 = .N ∧ (word (-10)).get 2 = .N ∧ (word (-1)).get 2 = .Z ∧ (word 8).get 2 = .P := by decide
theorem witness_LogicTables :
    LogicMode.rm3 ≠ .b3 ∧ LogicMode.b3 ≠ .heyting ∧ (Trit.Z = .Z ∨ Trit.P = .Z) ∧ Trit.N ≠ .Z ∧ Trit.N ≠ Trit.P := by
  decide
theorem witness_ImplicationTables :
    LogicMode.kleene ≠ .lukasiewicz ∧ (tand .heyting .P .Z).val ≤ Trit.Z.val := by decide

theorem witness_ImmediateResult_least : (-64570081 : Int) ≤ -64570081 ∧ (-64570081 : Int) ≤ 64570081 := by decide
theorem witness_ImmediateResult_greatest : (-64570081 : Int) ≤ 64570081 ∧ (64570081 : Int) ≤ 64570081 := by decide
theorem witness_CompareResult : (-64570081 : Int) ≤ -64570081 ∧ (64570081 : Int) ≤ 64570081 := by decide
theorem witness_LoadResult : CanAccess (start [(2, H)]) ((start [(2, H)]).effectiveAddress 2 1).val .read :=
  ⟨by decide, by decide⟩
theorem witness_LoadResult_user : CanAccess (user [(2, 161)]) ((user [(2, 161)]).effectiveAddress 2 0).val .read :=
  ⟨by decide, by decide⟩
theorem witness_StoreResult :
    CanAccess (start [(2, -H)]) ((start [(2, -H)]).effectiveAddress 2 0).val .write ∧
      (start [(2, -H)]).mem.wf = true ∧ (5 : Int) ≠ ((start [(2, -H)]).effectiveAddress 2 0).val :=
  ⟨⟨by decide, by decide⟩, by decide, by decide⟩

/-- A platform with memory at −999..999 only. -/
def small : State := { start [(2, 1000)] with memMap := [{ lo := -999, hi := 999, kind := .memory }] }

theorem witness_AccessTraps_missing : small.kindAt (small.effectiveAddress 2 0).val = none := by decide
theorem witness_AccessTraps_denied :
    (user [(2, 162)]).kindAt ((user [(2, 162)]).effectiveAddress 2 0).val ≠ none ∧
      (user [(2, 162)]).mpuCheck ((user [(2, 162)]).effectiveAddress 2 0).val .read = .deny ∧
      (user [(2, 162)]).mpuCheck ((user [(2, 162)]).effectiveAddress 2 0).val .write = .deny := by decide
theorem witness_AccessTraps_fetch_missing :
    let s : State := { small with pc := word 1000 }
    s.halted = false ∧ statusLegal s.status = true ∧ s.sampleLines.2.interruptLine s.sampleLines.1 = none ∧
      s.kindAt s.pc.val = none := by decide
theorem witness_AccessTraps_fetch_denied :
    let s : State := { user [] with pc := word 80 }
    s.halted = false ∧ statusLegal s.status = true ∧ s.sampleLines.2.interruptLine s.sampleLines.1 = none ∧
      s.kindAt s.pc.val ≠ none ∧ s.sampleLines.2.mpuCheck s.pc.val .fetch = .deny := by decide

theorem witness_MpuCheckDecides_no_region :
    (∀ i : Fin 9, (user []).mpu[i].covers 162 = false) ∧ (user []).mode = .P ∧
      (∀ i : Fin 9, (start []).mpu[i].covers 162 = false) ∧ (start []).mode = .N := by decide
theorem witness_MpuCheckDecides_region :
    (user []).mpu[(0 : Fin 9)].covers 81 = true ∧ (user []).mpu[(0 : Fin 9)].covers 161 = true ∧
      (user []).mpu[(0 : Fin 9)].perm .read = .P ∧ (user []).mpu[(0 : Fin 9)].perm .write = .Z ∧
      (region .N .N .N).perm .fetch = .N ∧ (user []).mode ≠ .Z := by decide
theorem witness_MemoryReadAfterWrite : Memory.wf [(-H, word 1), (5, word 2), (H, word 3)] = true := by decide

theorem witness_CsrReadResult : CanName (start []) .status ∧ CanName (user []) .lmode := by
  unfold CanName; decide
theorem witness_CsrWriteResult :
    (∀ c ∈ [Csr.lmode, .flags, .epc, .ecause, .evec, .esave, .etval, .epc2, .ecause2, .esave2, .etval2, .mpuBase,
        .ipending, .ienable, .ipriority, .reserved 7], CanName (start []) c ∧ csrAccepts c (word (-H)) = true) ∧
      csrAccepts .status (word (-31)) = true ∧ csrAccepts .mpuSelect (word 0) = true ∧
      csrAccepts .mpuSelect (word 8) = true ∧ csrAccepts .mpuCfg (word (26 * 27 - 13)) = true := by
  unfold CanName; decide
theorem witness_CsrExchangeResult :
    CanName (start []) .evec ∧ csrAccepts .evec ((start [(5, 900)]).reg 5) = true ∧ csrPlain .evec = true ∧
      (5 : Reg) ≠ 0 := by
  unfold CanName; decide
theorem witness_IllegalCsrAccessTraps :
    (user []).mode = .P ∧ kernelOnly .epc = true ∧ (start []).mode ≠ .P ∧ ((start [(5, -1)]).reg 5).val < 0 ∧
      8 < ((start [(5, 9)]).reg 5).val ∧ (∃ i, 8 ≤ i ∧ i < 27 ∧ ((start [(5, 6561)]).reg 5).get i ≠ .Z) ∧
      ((start [(5, -27)]).reg 5).field 3 4 < 0 ∧ 26 < ((start [(5, 2916)]).reg 5).field 3 4 :=
  ⟨by decide, by decide, by decide, by decide, by decide, ⟨8, by decide⟩, by decide, by decide⟩
theorem witness_CsrWriteRefusals :
    (start []).mode ≠ .P ∧ ((start [(5, 3)]).reg 5).get 0 = .Z ∧ ((start [(5, 80)]).reg 5).get 0 ≠ .Z ∧
      ∃ i, 4 ≤ i ∧ i < 27 ∧ ((start [(5, 80)]).reg 5).get i ≠ .Z :=
  ⟨by decide, by decide, by decide, 4, by decide⟩

theorem witness_OuterEntry : (start []).status.get 3 = .Z := by decide
theorem witness_NestedEntry : (word 23).get 3 = .P := by decide
theorem witness_MachineCheckReset : (word (-31)).get 3 = .N := by decide
theorem witness_EnvironmentCallsNopHalt : ({ start [] with halted := true } : State).halted = true := by decide
theorem witness_ReturnFromException :
    (word 23).get 3 = .P ∧ statusLegal (word (-2)) = true ∧ (word (-31)).get 3 = .N ∧ statusLegal (word 23) = true ∧
      (start []).status.get 3 = .Z := by decide
theorem witness_EntryThenReturn : (user []).status.get 3 ≠ .N ∧ statusLegal (user []).status = true := by decide
theorem witness_IllegalWordsTrap_opcodes :
    opcodeOf (word (-20)) = -20 ∧ opcodeOf (word (-19)) = -19 ∧ opcodeOf (word 14) = 14 ∧ opcodeOf (word 23) = 23 ∧
      opcodeOf (word 24) = 24 ∧ opcodeOf (word 25) = 25 ∧ opcodeOf (word 40) = 40 := by decide
theorem witness_IllegalWordsTrap_selectors :
    opcodeOf (word (-1473833)) = -38 ∧ (word (-1473833)).get 13 = .N ∧
      opcodeOf (tr [Z, N, N, P, Z, Z, Z, Z, Z, Z, Z, Z, Z, P]) = 15 ∧
      opcodeOf (word (-20605650)) = 21 ∧ (word (-20605650)).field 13 3 = -13 ∧
      opcodeOf (word 20729216) = 20 ∧ (word 20729216).field 13 3 = 13 ∧
      opcodeOf (word (-1473778)) = 17 ∧ (word (-1473778)).field 13 3 = -1 := by decide
theorem witness_IllegalWordsTrap_lane : (-13 : Int) < 0 := by decide

theorem witness_TritGetSet :
    (0 ≤ 26 ∧ ((start [(7, 0)]).reg 7).val = (0 : Nat)) ∧ 26 ≤ 26 ∧ ((start [(7, 26)]).reg 7).val = (26 : Nat) := by
  decide
theorem witness_OpenValuesStillRun_index :
    ((start [(7, -1)]).reg 7).val < 0 ∧ 26 < ((start [(7, 27)]).reg 7).val := by decide
theorem witness_OpenValuesStillRun_special :
    isT26f ((start [(6, 1270932914164)]).reg 6) = true ∧
      decodeT26f ((start [(6, 1270932914164)]).reg 6) = .inf ∧
      decodeT26f ((start [(6, -1270932914164)]).reg 6) = .nar ∧ isT26f ((start [(6, H)]).reg 6) = false := by decide
theorem witness_OpenValuesStillRun_large :
    isT26f (word 1270932914163) = true ∧ ∃ q, decodeT26f (word 1270932914163) = .normal q ∧ (H : Rat) + 1 ≤ |q| :=
  ⟨by decide, (decodeT26f (word 1270932914163)).rat, by decide +kernel, by decide +kernel⟩

theorem witness_LaneReductions :
    (∃ i, i < 27 ∧ (word H).get i = .P) ∧ (∀ i, i < 27 → (word H).get i ≠ .N) ∧
      (∀ i, i < 27 → (word (-H)).get i ≠ .P) ∧ ({ start [] with lmode := word 1 } : State).logicMode = .b3 ∧
      (∃ i, i < 27 ∧ (word 1).get i = .Z) :=
  ⟨⟨0, by decide⟩, by decide, by decide, by decide, 1, by decide⟩
theorem witness_LanePermutations : (26 : Nat) < 27 ∧ (26 : Int) = (24 : Nat) + (word 2).field 0 5 := by decide
theorem witness_BankMoves : 0 ≤ 13 ∧ 13 ≤ 13 := by decide

theorem witness_TfpClasses : isT26f infWord = true ∧ isT26f narWord = true ∧ isT26f zeroWord = true := by decide
theorem witness_TfpNormal :
    isT26f (word 635466457082) = true ∧ decodeT26f (word 635466457082) = .normal 1 ∧
      decodeT26f (word (-635466457082)) = .normal (-1) := by decide +kernel
theorem witness_TfpOperands :
    isT26f ((start [(6, 635466457082), (7, -635466457082)]).reg 6) = true ∧
      isT26f ((start [(6, 635466457082), (7, -635466457082)]).reg 7) = true := by decide
theorem witness_TfpConversions_zero : isT26f zeroWord = true ∧ decodeT26f zeroWord = .zero := by decide

theorem witness_DecodeEncode :
    Instr.wf (.li 26 (-64570081)) = true ∧ Instr.wf (.brt3 0 29524 (-29524)) = true ∧
      Instr.wf (.reservedOpcode (word 14)) = true := by decide
theorem witness_RawWordsSurviveDecoding :
    opcodeOf (word (-7)) = -7 ∧ opcodeOf (word (-6)) = -6 ∧ opcodeOf (word (-5)) = -5 ∧
      opcodeOf (word (-27100472)) = 22 ∧ (word (-27100472)).field 13 3 = 10 := by decide
theorem witness_StepRunsDecoded :
    let s := placed [N] (user [])
    s.halted = false ∧ statusLegal s.status = true ∧ s.sampleLines.2.interruptLine s.sampleLines.1 = none ∧
      s.sampleLines.2.kindAt s.pc.val = some .memory ∧ s.sampleLines.2.mpuCheck s.pc.val .fetch = .allow ∧
      decode (s.mem.read s.pc.val) = .nop := by decide
theorem witness_InterruptDispatch :
    arbitration.halted = false ∧ statusLegal arbitration.status = true ∧ arbitration.status.get 1 = .P ∧
      arbitration.status.get 3 ≠ .N ∧ arbitration.sampleLines.1[5] = true ∧ arbitration.ienable[5] = true ∧
      ∀ j : Fin 9, (arbitration.sampleLines.1[j] = true ∨ arbitration.swpend[j] = true) →
        arbitration.ienable[j] = true →
        arbitration.ipriority.field (3 * j.val) 3 < arbitration.ipriority.field 15 3 ∨
          (arbitration.ipriority.field (3 * j.val) 3 = arbitration.ipriority.field 15 3 ∧ (5 : Fin 9) ≤ j) := by
  decide
theorem witness_InterruptDispatch_masked :
    (word 1).get 1 ≠ .P ∧ (word (-25)).get 3 = .N ∧
      ∀ k : Fin 9, (lines35[k] = false ∧ State.reset.swpend[k] = false) ∨ State.reset.ienable[k] = false := by decide

theorem reset_inv : State.reset.Inv := ⟨by decide, by decide, by decide, by decide⟩
theorem witness_InvariantKept : State.reset.Inv ∧ ∃ t, step State.reset = .next t :=
  ⟨reset_inv, exists_next (by decide)⟩
theorem witness_OnlyNamedWriters :
    opcodeOf (word (-1)) = -1 ∧ (start []).status.get 3 ≠ .N ∧ ∃ t, exec (decode (word (-1))) (start []) = .next t :=
  ⟨by decide, by decide, exists_next (by decide)⟩
theorem witness_UserModeConfined :
    (user []).status.get 0 = .P ∧ (user []).status.get 3 = .Z ∧ (∃ t, step (placed [N] (user [])) = .next t) ∧
      ∃ t, step (placed [N, N] (user [])) = .next t :=
  ⟨by decide, by decide, exists_next (by decide), exists_next (by decide)⟩
/-- User code at depth P: an environment call enters the nested frame, an IRET returns by the main bank. -/
theorem witness_UserModeConfined_depthP :
    let s := { user [] with status := word 28, esave := word (-2) }
    s.status.get 0 = .P ∧ s.status.get 3 = .P ∧
      (nextOf (step (placed [N, N] s))).map (fun t => t.status.get 3) = some .N ∧
      (nextOf (step (placed [Z, N] s))).map (fun t => t.status.val) = some (-2) := by decide
/-- User code at depth N: an environment call resets, an IRET returns by the frame-2 bank. -/
theorem witness_UserModeConfined_depthN :
    let s := { user [] with status := word (-26), esave2 := word 28 }
    s.status.get 0 = .P ∧ s.status.get 3 = .N ∧
      (nextOf (step (placed [N, N] s))).map (fun t => (t.status.val, t.pc.val)) = some (-1, 0) ∧
      (nextOf (step (placed [Z, N] s))).map (fun t => t.status.val) = some 28 := by decide

end Sys2Proof.Tests
end

section
/-! SUPPORT. What one step of the processor can do, and the invariant that every step keeps (InvariantKept,
InvariantAtReset). -/

namespace Sys2Proof.Machine

/-! ### The cases of a step -/

/-- A fetch that goes through reads the word at pc. -/
theorem State.fetch_ok {s : State} {w : Word} (h : s.fetch = .ok w) : w = s.mem.read s.pc.val := by
  unfold State.fetch at h
  cases hc : s.checkAccess s.pc .fetch with
  | error e => simp [hc, Except.map] at h
  | ok _ => simpa [hc, Except.map] using h.symm

/-- A step with a next state did nothing (the processor is halted), or, after sampling the lines, took an interrupt or
a fetch exception, or ran the instruction at pc (R440). -/
theorem step_next {s t : State} (h : step s = .next t) :
    t = s ∨ (∃ c v, t = s.sampleLines.2.trap c v s.pc) ∨
      exec (decode (s.mem.read s.pc.val)) s.sampleLines.2 = .next t := by
  by_cases hh : s.halted = true
  · rw [step, if_pos hh] at h
    exact .inl (next_inj h)
  by_cases hl : statusLegal s.status = true
  · cases hi : s.sampleLines.2.interruptLine s.sampleLines.1 with
    | some k =>
      rw [step, if_neg hh, (statusRefusal_none _).2 hl] at h
      simp only [hi] at h
      exact .inr (.inl ⟨irqCause k, zeroWord, by simpa using next_inj h⟩)
    | none =>
      rw [step_eq (by simpa using hh) hl hi] at h
      cases hf : s.sampleLines.2.fetch with
      | error stop =>
        rw [hf] at h
        rcases finish_next h with hc | ⟨c, v, -, ht⟩
        · cases hc
        · exact .inr (.inl ⟨c, v, by simpa using ht⟩)
      | ok w =>
        rw [hf] at h
        obtain rfl : w = s.mem.read s.pc.val := by simpa using State.fetch_ok hf
        exact .inr (.inr h)
  · cases hr : statusRefusal s.status with
    | some r => simp [step, hh, hr] at h
    | none => exact absurd ((statusRefusal_none _).1 hr) hl

/-! ### What `RegistersOnly` keeps -/

theorem RegistersOnly.mem {s t : State} (h : RegistersOnly s t) : t.mem = s.mem := by rw [h.core]
theorem RegistersOnly.status {s t : State} (h : RegistersOnly s t) : t.status = s.status := by rw [h.core]
theorem RegistersOnly.mpu {s t : State} (h : RegistersOnly s t) : t.mpu = s.mpu := by rw [h.core]

/-! ### Keeping the invariant -/

/-- The invariant looks at four fields only. -/
theorem State.Inv.congr {s t : State} (h : s.Inv) (hmem : t.mem = s.mem) (hstatus : t.status = s.status)
    (hzero : t.regs[0] = s.regs[0]) (hmpu : t.mpu = s.mpu) : t.Inv :=
  ⟨hmem ▸ h.memory, hstatus ▸ h.status, hzero.trans h.zero, hmpu ▸ h.sizes⟩

theorem State.Inv.registersOnly {s t : State} (h : s.Inv) (ht : RegistersOnly s t) : t.Inv :=
  h.congr ht.mem ht.status ht.zero ht.mpu

theorem State.Inv.withFeed {s : State} (h : s.Inv) (feed : List IrqLines) : ({ s with irqFeed := feed } : State).Inv :=
  h.congr rfl rfl rfl rfl

theorem State.Inv.sampleLines {s : State} (h : s.Inv) : s.sampleLines.2.Inv := by
  rw [State.sampleLines_eq]
  exact h.withFeed _

/-- Another legal STATUS and pc keep the invariant: what a return from exception writes. -/
theorem State.Inv.withStatus {s : State} (h : s.Inv) {v : Word} (hv : statusLegal v = true) (p : Word) :
    ({ s with pc := p, status := v } : State).Inv :=
  ⟨h.memory, hv, h.zero, h.sizes⟩

theorem reset_mpu_sizes : ∀ d ∈ State.reset.mpu.toList, inRange 0 26 d.size.val = true := by decide

theorem State.Inv.trap {s : State} (h : s.Inv) (c : Int) (v e : Word) : (s.trap c v e).Inv := by
  rcases s.trap_cases c v e with ⟨-, ht⟩ | ⟨-, ht⟩ | ⟨-, ht⟩ <;> rw [ht]
  · exact ⟨h.memory, statusLegal_enterStatus h.status _, h.zero, h.sizes⟩
  · exact ⟨h.memory, statusLegal_enterStatus h.status _, h.zero, h.sizes⟩
  · exact ⟨h.memory, statusLegal_reset, h.zero, reset_mpu_sizes⟩

theorem State.Inv.store {s : State} (h : s.Inv) (a v p : Word) :
    ({ s with mem := s.mem.write a.val v, pc := p } : State).Inv :=
  ⟨Memory.wf_write h.memory a v, h.status, h.zero, h.sizes⟩

/-- The slice of a word has the value of the field. -/
theorem val_slice {n : Nat} (w : Trits n) (lo len : Nat) : (w.slice lo len).val = w.field lo len := val_ofFn _

/-- Replacing the selected descriptor by one of a legal size keeps the invariant. -/
theorem State.Inv.setSelected {s : State} (h : s.Inv) {d : MpuDesc} (hd : inRange 0 26 d.size.val = true) :
    (s.setSelected d).Inv := by
  refine ⟨h.memory, h.status, h.zero, fun e he => ?_⟩
  rw [State.setSelected_mpu, Vector.toList_set] at he
  rcases List.mem_or_eq_of_mem_set he with he | rfl
  · exact h.sizes e he
  · exact hd

theorem State.Inv.size_selected {s : State} (h : s.Inv) : inRange 0 26 s.selected.size.val = true :=
  h.sizes _ (by simp [State.selected])

/-- A CSR write that goes through keeps the invariant: STATUS and MPU_CFG take legal values only (R36, R39). -/
theorem State.Inv.csrWrite {s t : State} {c : Csr} {v raw : Word} (h : s.Inv) (hw : s.csrWrite c v raw = .ok t) :
    t.Inv := by
  have ha := State.csrWrite_accepts hw
  cases c
  case pc => simp [csrAccepts] at ha
  case status =>
    simp only [State.csrWrite, (statusRefusal_none v).2 ha, Except.ok.injEq] at hw
    exact hw ▸ ⟨h.memory, ha, h.zero, h.sizes⟩
  case mpuSelect =>
    simp only [State.csrWrite, show inRange 0 8 v.val = true from ha, if_true, Except.ok.injEq] at hw
    exact hw ▸ h.congr rfl rfl rfl rfl
  case mpuBase =>
    simp only [State.csrWrite, Except.ok.injEq] at hw
    exact hw ▸ h.setSelected h.size_selected
  case mpuCfg =>
    have hl : configLegal v = true := ha
    simp only [State.csrWrite, hl, if_true, Except.ok.injEq] at hw
    refine hw ▸ h.setSelected ?_
    rw [val_slice]
    exact (Bool.and_eq_true_iff.1 hl).2
  all_goals
    simp only [State.csrWrite, Except.ok.injEq] at hw
    exact hw ▸ h.congr rfl rfl rfl rfl

theorem State.Inv.csrRead {s : State} (h : s.Inv) (c : Csr) : (s.csrRead c).2.Inv := by
  rw [State.csrRead_state_eq]
  split
  · exact h.withFeed _
  · exact h

theorem State.Inv.exceptionReturn {s t : State} (h : s.Inv) (ht : s.exceptionReturn = .ok t) : t.Inv := by
  rcases State.exceptionReturn_ok ht with ⟨-, hv, rfl⟩ | ⟨-, hv, rfl⟩ <;> exact h.withStatus hv _

/-- Every effect of an instruction keeps the invariant. -/
theorem State.Inv.effect {s t : State} {i : Instr} (h : s.Inv) (he : Effect s i t) : t.Inv := by
  cases he with
  | trap _ c v => exact h.trap c v s.pc
  | quiet hq => exact h.registersOnly hq
  | store rsrc rs1 imm v p => exact h.store _ v p
  | csrr rd c lo hi hc => exact (h.csrRead c).registersOnly (registersOnly_regWrite _ _ _)
  | csrw c rs1 lo hi u raw hc hw => exact (h.csrWrite hw).registersOnly (registersOnly_advance _)
  | csrx rd rs1 c hi u raw hc hw =>
    exact ((h.csrRead c).csrWrite hw).registersOnly ((registersOnly_setReg _ _ _).trans (registersOnly_advance _))
  | iret hr => exact h.exceptionReturn hr
  | halt => exact h.congr rfl rfl rfl rfl

/-- Settles O57: the three cases of a step, and over them every effect of an instruction, keep the invariant. -/
theorem invariantKept : Obligations.InvariantKept := by
  intro s t h hs
  rcases step_next hs with rfl | ⟨c, v, rfl⟩ | he
  · exact h
  · exact h.sampleLines.trap c v s.pc
  · exact h.sampleLines.effect (exec_effect he)

/-- Settles O56. -/
theorem invariantAtReset : Obligations.InvariantAtReset :=
  ⟨Memory.wf_reset, statusLegal_reset, rfl, reset_mpu_sizes⟩

end Sys2Proof.Machine
end

section
/-! SUPPORT. What user code can do to the kernel's state (UserModeConfined), and the values after reset (ResetState). -/

namespace Sys2Proof.Machine

/-! ### The values after reset -/

/-- Trit `i` of a word of lines (R41, R42). -/
theorem get_lineWord (f : Nat → Bool) (i : Nat) :
    (lineWord f).get i = if i < 9 ∧ f i = true then .P else .Z := by
  rw [lineWord, Trits.get_ofFn]
  by_cases h : i < 9
  · simp [h, show i < 27 by omega]
  · simp [h]

theorem lineBit_of_lt (v : Vector Bool 9) {k : Nat} (h : k < 9) : lineBit v k = v[k] := by
  simp [lineBit, h]

/-- With every software latch clear, IPENDING reads as the lines are sampled (D26). -/
theorem get_csrRead_ipending {s : State} (hclear : s.swpend = State.reset.swpend) (i : Nat) :
    (s.csrRead .ipending).1.get i =
      if h : i < 9 then (if s.sampleLines.1[i] then .P else .Z) else .Z := by
  have clear : ∀ k, k < 9 → lineBit State.reset.swpend k = false := by decide
  show (lineWord (s.pending s.sampleLines.1)).get i = _
  rw [get_lineWord]
  by_cases hi : i < 9
  · simp [hi, State.pending, hclear, clear i hi, lineBit_of_lt]
  · simp [hi]

theorem reset_mpu_atResetValues (i : Fin 9) :
    State.reset.mpu[i].valid = .N ∧ State.reset.mpu[i].base.val = 0 ∧ State.reset.mpu[i].permR = .Z ∧
      State.reset.mpu[i].permW = .Z ∧ State.reset.mpu[i].permX = .Z ∧ State.reset.mpu[i].size.val = 0 := by
  have h : State.reset.mpu[i] = MpuDesc.reset := by
    revert i
    decide
  rw [h]
  decide

/-- A machine-check reset leaves every row of R47 at its value, from any state and with any feed (R436). -/
theorem State.atResetValues_machineCheckReset (s : State) : s.machineCheckReset.AtResetValues where
  pc := val_zeroWord
  r0 := rfl
  lmode := val_zeroWord
  flagSign := rfl
  flagCarry := rfl
  mainBank := ⟨val_zeroWord, val_zeroWord, val_zeroWord, val_zeroWord, val_zeroWord⟩
  frame2Bank := ⟨val_zeroWord, val_zeroWord, val_zeroWord, val_zeroWord⟩
  status := val_word_of_bounds (by decide) (by decide)
  mpuSelect := rfl
  mpu := reset_mpu_atResetValues
  ienable := show ∀ k : Fin 9, State.reset.ienable[k] = false by decide
  ipriority := val_zeroWord
  swpend := show ∀ k : Fin 9, State.reset.swpend[k] = false by decide
  ipending := get_csrRead_ipending rfl
  halted := rfl

/-- Settles O55: the reset state with any feed is what a machine-check reset leaves of it. -/
theorem resetState : Obligations.ResetState :=
  ⟨fun feed => State.atResetValues_machineCheckReset { State.reset with irqFeed := feed },
    by decide, by decide, by decide, by decide, by decide, by decide, rfl, rfl, rfl, val_zeroWord,
    val_word_of_bounds (by decide) (by decide)⟩

/-! ### Leaving the kernel's state alone -/

theorem SameKernelState.refl (s : State) : SameKernelState s s := by simp [SameKernelState]

theorem SameKernelState.trans {s t u : State} (h : SameKernelState s t) (k : SameKernelState t u) :
    SameKernelState s u := by
  unfold SameKernelState at *
  simp_all

theorem RegistersOnly.sameKernelState {s t : State} (h : RegistersOnly s t) : SameKernelState s t := by
  rw [h.core]
  exact SameKernelState.refl s

theorem sameKernelState_withFeed (s : State) (feed : List IrqLines) :
    SameKernelState s { s with irqFeed := feed } := SameKernelState.refl s

theorem sameKernelState_csrRead (s : State) (c : Csr) : SameKernelState s (s.csrRead c).2 := by
  rw [State.csrRead_state_eq]
  split
  · exact sameKernelState_withFeed s _
  · exact SameKernelState.refl s

/-- User mode may name only the CSRs that are not kernel-only (R29). -/
theorem State.kernelOnly_of_csrCheck {s : State} {c : Csr} {raw : Word} (hu : s.mode = .P)
    (h : s.csrCheck c raw = .ok ()) : kernelOnly c = false := by
  by_contra hk
  rw [State.csrCheck_user hu (by simpa using hk)] at h
  cases h

/-- A write to a CSR that is not kernel-only is a write to LMODE or FLAGS, or is discarded. -/
theorem State.csrWrite_sameKernelState {s t : State} {c : Csr} {v raw : Word} (hk : kernelOnly c = false)
    (hw : s.csrWrite c v raw = .ok t) : SameKernelState s t := by
  cases c
  case pc => cases hw
  case lmode | flags | reserved => cases hw; exact SameKernelState.refl s
  all_goals cases hk

/-! ### User code -/

/-- What an entry does at each depth (R431, R432, R436), and what IRET does: the ways in which a step from user mode
ends outside user mode, as UserModeConfined states them. -/
def EntryAtDepth (s t : State) : Prop :=
  (s.depth = .Z ∧
    t = { s with
      esave := s.status, epc := s.pc, ecause := t.ecause, etval := t.etval, status := t.status, pc := s.evec } ∧
    t.mode = .N ∧ t.ie = .N ∧ t.depth = .P) ∨
  (s.depth = .P ∧
    t = { s with
      esave2 := s.status, epc2 := s.pc, ecause2 := t.ecause2, etval2 := t.etval2, status := t.status, pc := s.evec } ∧
    t.mode = .N ∧ t.ie = .N ∧ t.depth = .N) ∨
  (s.depth = .N ∧ t.AtResetValues ∧ t.regs = s.regs ∧ t.vregs = s.vregs ∧ t.mem = s.mem)

theorem entryAtDepth_trap (s : State) (c : Int) (v : Word) : EntryAtDepth s (s.trap c v s.pc) := by
  have mode : ∀ d, (enterStatus s.status d).get 0 = .N := fun d => get_enterStatus s.status d 0 (by decide)
  have ie : ∀ d, (enterStatus s.status d).get 1 = .N := fun d => get_enterStatus s.status d 1 (by decide)
  have depth : ∀ d, (enterStatus s.status d).get 3 = d := fun d => get_enterStatus s.status d 3 (by decide)
  rcases s.trap_cases c v s.pc with ⟨hd, ht⟩ | ⟨hd, ht⟩ | ⟨hd, ht⟩ <;> rw [ht]
  · exact .inl ⟨hd, rfl, mode _, ie _, depth _⟩
  · exact .inr (.inl ⟨hd, rfl, mode _, ie _, depth _⟩)
  · exact .inr (.inr ⟨hd, s.atResetValues_machineCheckReset, rfl, rfl, rfl⟩)

/-- An instruction run in user mode leaves the kernel's state alone, takes an exception, or is IRET. -/
theorem Effect.user_cases {s t : State} {i : Instr} (hu : s.mode = .P) (he : Effect s i t) :
    SameKernelState s t ∨ (∃ c v, t = s.trap c v s.pc) ∨ (i = .iret ∧ s.exceptionReturn = .ok t) := by
  cases he with
  | trap _ c v => exact .inr (.inl ⟨c, v, rfl⟩)
  | quiet hq => exact .inl hq.sameKernelState
  | store rsrc rs1 imm v p => exact .inl (SameKernelState.refl s)
  | csrr rd c lo hi hc =>
    exact .inl ((sameKernelState_csrRead s c).trans (registersOnly_regWrite _ _ _).sameKernelState)
  | csrw c rs1 lo hi u raw hc hw =>
    have hk := State.csrWrite_sameKernelState (State.kernelOnly_of_csrCheck hu hc) hw
    exact .inl (hk.trans (registersOnly_advance u).sameKernelState)
  | csrx rd rs1 c hi u raw hc hw =>
    have hk := State.csrWrite_sameKernelState (State.kernelOnly_of_csrCheck hu hc) hw
    have hr := (registersOnly_setReg u rd (s.csrRead c).1).trans (registersOnly_advance _)
    exact .inl ((sameKernelState_csrRead s c).trans (hk.trans hr.sameKernelState))
  | iret hr => exact .inr (.inr ⟨rfl, hr⟩)
  | halt => exact .inl (SameKernelState.refl s)

/-- A step in user mode leaves the kernel's state alone, enters, or is IRET; entry and IRET act on the state that has
sampled the lines. -/
theorem step_user_cases {s t : State} (hu : s.mode = .P) (hs : step s = .next t) :
    SameKernelState s t ∨ EntryAtDepth { s with irqFeed := s.irqFeed.tail } t ∨
      (decode (s.mem.read s.pc.val) = .iret ∧
        ({ s with irqFeed := s.irqFeed.tail } : State).exceptionReturn = .ok t) := by
  have hsample := s.sampleLines_eq
  rcases step_next hs with rfl | ⟨c, v, ht⟩ | he
  · exact .inl (SameKernelState.refl t)
  · rw [hsample] at ht
    exact .inr (.inl (ht ▸ entryAtDepth_trap _ c v))
  · rw [hsample] at he
    have hu' : ({ s with irqFeed := s.irqFeed.tail } : State).mode = .P := hu
    rcases (exec_effect he).user_cases hu' with h | ⟨c, v, ht⟩ | hret
    · exact .inl ((sameKernelState_withFeed s _).trans h)
    · exact .inr (.inl (ht ▸ entryAtDepth_trap _ c v))
    · exact .inr (.inr hret)

/-- Settles O59: of the ways in which a step can go in user mode, an entry takes one of three cases by the depth and an
IRET one of two. -/
theorem userModeConfined : Obligations.UserModeConfined := by
  intro s t hu hs
  rcases step_user_cases hu hs with hsame | (hmain | hnested | hreset) | ⟨hi, hret⟩
  · exact .inl hsame
  · exact .inr (.inl hmain)
  · exact .inr (.inr (.inl hnested))
  · exact .inr (.inr (.inr (.inl hreset)))
  · refine .inr (.inr (.inr (.inr ⟨hi, ?_⟩)))
    rcases State.exceptionReturn_ok hret with ⟨hd, -, ht⟩ | ⟨hd, -, ht⟩
    · exact .inl ⟨hd, ht⟩
    · exact .inr ⟨hd, ht⟩

end Sys2Proof.Machine
end

section
/-! SUPPORT. CSR accesses that trap (IllegalCsrAccessTraps) or that the model refuses by name (CsrWriteRefusals), and
the interrupt that is taken (InterruptDispatch). -/

namespace Sys2Proof.Machine

/-! ### CSR accesses that stop -/

theorem exec_csrr_stop {s : State} {rd : Reg} {c : Csr} {lo : Trits 3} {hi : Trits 14} {e : Stop}
    (h : s.csrCheck c (encode (.csrr rd c lo hi)) = .error e) :
    exec (.csrr rd c lo hi) s = finish s (.error e) := by
  show finish s (s.csrLoad rd c _) = _
  rw [State.csrLoad, h]
  rfl

theorem exec_csrw_stop {s : State} {c : Csr} {rs1 : Reg} {lo : Trits 3} {hi : Trits 14} {e : Stop}
    (h : s.csrCheck c (encode (.csrw c rs1 lo hi)) = .error e) :
    exec (.csrw c rs1 lo hi) s = finish s (.error e) := by
  show finish s (s.csrStore c rs1 _) = _
  rw [State.csrStore, h]
  rfl

theorem exec_csrx_stop {s : State} {rd rs1 : Reg} {c : Csr} {hi : Trits 14} {e : Stop}
    (h : s.csrCheck c (encode (.csrx rd rs1 c hi)) = .error e) :
    exec (.csrx rd rs1 c hi) s = finish s (.error e) := by
  show finish s (s.csrExchange rd rs1 c _) = _
  rw [State.csrExchange, h]
  rfl

/-- A CSRW that the mode may make stops where the write stops. -/
theorem exec_csrw_write_stop {s : State} {c : Csr} {rs1 : Reg} {lo : Trits 3} {hi : Trits 14} {e : Stop}
    (hn : CanName s c) (h : s.csrWrite c (s.reg rs1) (encode (.csrw c rs1 lo hi)) = .error e) :
    exec (.csrw c rs1 lo hi) s = finish s (.error e) := by
  show finish s (s.csrStore c rs1 _) = _
  rw [State.csrStore, State.csrCheck_ok hn]
  simp only [Except.bind, h, Except.map]

/-- A CSRX that the mode may make stops where the write stops: no CSR but IPENDING is changed by its read. -/
theorem exec_csrx_write_stop {s : State} {rd rs1 : Reg} {c : Csr} {hi : Trits 14} {e : Stop}
    (hn : CanName s c) (hc : c ≠ .ipending)
    (h : s.csrWrite c (s.reg rs1) (encode (.csrx rd rs1 c hi)) = .error e) :
    exec (.csrx rd rs1 c hi) s = finish s (.error e) := by
  show finish s (s.csrExchange rd rs1 c _) = _
  rw [State.csrExchange, State.csrCheck_ok hn, State.csrRead_state_of_ne s hc]
  simp only [Except.bind, h, Except.map]

/-- Where the write of a value to a CSR stops, whatever the raw word is that goes to ETVAL, CSRW and CSRX stop so. -/
theorem exec_csr_write_stop {s : State} {rd rs1 : Reg} {c : Csr} {lo : Trits 3} {hi : Trits 14} {e : Word → Stop}
    (hn : CanName s c) (hc : c ≠ .ipending) (h : ∀ raw, s.csrWrite c (s.reg rs1) raw = .error (e raw)) :
    exec (.csrw c rs1 lo hi) s = finish s (.error (e (encode (.csrw c rs1 lo hi)))) ∧
      exec (.csrx rd rs1 c hi) s = finish s (.error (e (encode (.csrx rd rs1 c hi)))) :=
  ⟨exec_csrw_write_stop hn (h _), exec_csrx_write_stop hn hc (h _)⟩

theorem inRange_eq_false {lo hi n : Int} (h : n < lo ∨ hi < n) : inRange lo hi n = false := by
  simp only [inRange, Bool.and_eq_false_iff, decide_eq_false_iff_not, not_le]
  exact h

theorem allZ_eq_false {w : Nat} {x : Trits w} {lo len : Nat} (h : ∃ i, lo ≤ i ∧ i < lo + len ∧ x.get i ≠ .Z) :
    allZ x lo len = false := by
  obtain ⟨i, h1, h2, hne⟩ := h
  by_contra hz
  exact hne ((allZ_iff x lo len).1 (by simpa using hz) i h1 h2)

/-- What MPU_CFG does not accept (R39): a non-Z trit above t[7], or a size exponent outside 0..26. -/
theorem configLegal_eq_false {v : Word}
    (h : (∃ i, 8 ≤ i ∧ i < 27 ∧ v.get i ≠ .Z) ∨ v.field 3 4 < 0 ∨ 26 < v.field 3 4) : configLegal v = false := by
  rw [configLegal, Bool.and_eq_false_iff]
  exact h.imp allZ_eq_false inRange_eq_false

/-- Settles O25: user mode stops at the CSR check, the bad values at the write. -/
theorem illegalCsrAccessTraps : Obligations.IllegalCsrAccessTraps := by
  refine ⟨fun rd rs1 c lo hi s hu hk => ?_, fun rd rs1 lo hi s hk => ⟨fun hv => ?_, fun hv => ?_⟩⟩
  · exact ⟨exec_csrr_stop (State.csrCheck_user hu hk), exec_csrw_stop (State.csrCheck_user hu hk),
      exec_csrx_stop (State.csrCheck_user hu hk)⟩
  · refine exec_csr_write_stop (e := .exc excIllegal) (.inl hk) (by decide) fun raw => ?_
    simp [State.csrWrite, inRange_eq_false hv]
  · refine exec_csr_write_stop (e := .exc excIllegal) (.inl hk) (by decide) fun raw => ?_
    simp [State.csrWrite, configLegal_eq_false hv]

/-- A write to STATUS of a word the spec gives no behaviour stops with that refusal (R36). -/
theorem State.csrWrite_status_refused {s : State} {v : Word} {r : Refusal} (h : statusRefusal v = some r) (raw : Word) :
    s.csrWrite .status v raw = .error (.refuse r) := by
  simp [State.csrWrite, h]

/-- Settles O26: each of the writes stops with a refusal, for every raw word. -/
theorem csrWriteRefusals : Obligations.CsrWriteRefusals := by
  intro rd rs1 lo hi s
  have hpc : CanName s .pc := .inr rfl
  obtain ⟨hw, hx⟩ := exec_csr_write_stop (rd := rd) (rs1 := rs1) (lo := lo) (hi := hi)
    (e := fun _ => .refuse .csrPcWrite) hpc (by decide) fun raw => rfl
  refine ⟨hw, hx, fun hk hmode => ?_, fun hk hmode hres => ?_⟩
  · have hr : statusRefusal (s.reg rs1) = some .reservedMode := if_pos hmode
    exact exec_csr_write_stop (e := fun _ => .refuse .reservedMode) (.inl hk) (by decide)
      (State.csrWrite_status_refused hr)
  · have hr : statusRefusal (s.reg rs1) = some .reservedStatus := by
      rw [statusRefusal, if_neg hmode, allZ_eq_false hres]
      rfl
    exact exec_csr_write_stop (e := fun _ => .refuse .reservedStatus) (.inl hk) (by decide)
      (State.csrWrite_status_refused hr)

/-! ### The interrupt taken -/

theorem State.eligible_iff (s : State) (lines : IrqLines) (k : Fin 9) :
    s.eligible lines k = true ↔ (lines[k] = true ∨ s.swpend[k] = true) ∧ s.ienable[k] = true := by
  simp [State.eligible, State.pending, lineBit_of_lt]

/-- An eligible line of greatest priority, the lowest of them on ties, is the one picked. -/
theorem pickLine_eq_some {el : Nat → Bool} {pr : Nat → Int} {n k : Nat} (hk : k < n) (hel : el k = true)
    (hmax : ∀ j, j < n → el j = true → pr j < pr k ∨ (pr j = pr k ∧ k ≤ j)) : pickLine el pr n = some k := by
  cases hp : pickLine el pr n with
  | none => simp [pickLine_none.1 hp k hk] at hel
  | some q =>
    obtain ⟨hq, helq, hqmax⟩ := pickLine_some hp
    have h1 := hmax q hq helq
    have h2 := hqmax k hk hel
    congr 1
    omega

/-- The line that wins the arbitration is taken where ie is P and the depth is not N (R461, R464). -/
theorem State.interruptLine_eq_some {s : State} {lines : IrqLines} {k : Fin 9} (hie : s.ie = .P) (hd : s.depth ≠ .N)
    (hel : s.eligible lines k = true)
    (hmax : ∀ j : Fin 9, s.eligible lines j = true →
      s.priority j < s.priority k ∨ (s.priority j = s.priority k ∧ k ≤ j)) :
    s.interruptLine lines = some k.val := by
  rw [State.interruptLine, if_pos ⟨hie, hd⟩]
  exact pickLine_eq_some k.isLt hel fun j hj => hmax ⟨j, hj⟩

/-- Each of the three masks lets no interrupt through (R464). -/
theorem State.interruptLine_eq_none {s : State} {lines : IrqLines}
    (h : s.ie ≠ .P ∨ s.depth = .N ∨ ∀ k : Fin 9, s.eligible lines k = false) : s.interruptLine lines = none := by
  unfold State.interruptLine
  split
  · rename_i hm
    obtain ⟨hie, hd⟩ := hm
    rcases h with h | h | h
    · exact absurd hie h
    · exact absurd h hd
    · exact pickLine_none.2 fun j hj => h ⟨j, hj⟩
  · rfl

/-- A step of a running processor with a legal STATUS at which a line is taken enters with its cause (R461). -/
theorem step_of_interruptLine {s : State} {k : Nat} (hh : s.halted = false) (hl : statusLegal s.status = true)
    (hi : s.sampleLines.2.interruptLine s.sampleLines.1 = some k) :
    step s = .next (s.sampleLines.2.trap (irqCause k) zeroWord s.pc) := by
  rw [step, if_neg (by simp [hh]), (statusRefusal_none _).2 hl]
  simp only [hi, State.sampleLines_pc]

/-- Settles O54: the line picked among the eligible ones is unique, and each mask stops the arbitration. -/
theorem interruptDispatch : Obligations.InterruptDispatch := by
  refine ⟨fun s k hh hl hie hd hpend hen hmax => ?_, fun s lines h => State.interruptLine_eq_none ?_⟩
  · have eligible : ∀ j : Fin 9, s.sampleLines.2.eligible s.sampleLines.1 j = true ↔
        (s.sampleLines.1[j] = true ∨ s.swpend[j] = true) ∧ s.ienable[j] = true := fun j => by
      simp [State.eligible_iff]
    have priority : ∀ j : Nat, s.sampleLines.2.priority j = s.ipriority.field (3 * j) 3 := fun j => by
      simp [State.priority]
    refine step_of_interruptLine hh hl (State.interruptLine_eq_some ?_ ?_ ((eligible k).2 ⟨hpend, hen⟩) fun j hj => ?_)
    · simpa [State.ie] using hie
    · simpa [State.depth] using hd
    · rw [priority, priority]
      exact hmax j ((eligible j).1 hj).1 ((eligible j).1 hj).2
  · refine h.imp id (Or.imp id fun hk k => ?_)
    rw [← Bool.not_eq_true, State.eligible_iff]
    rintro ⟨hp, he⟩
    rcases hk k with ⟨hl, hs⟩ | hn
    · simp [hl, hs] at hp
    · simp [hn] at he

end Sys2Proof.Machine
end

section
/-! SUPPORT. Which instructions write FLAGS, memory and the vector bank, and which opcodes their words carry
(OnlyNamedWriters). -/

namespace Sys2Proof

/-! ### Opcodes of decoded words -/

theorem opcodes_decodeAdd (w : Word) : (decodeAdd w).opcodes = [-40] := by unfold decodeAdd; split <;> rfl
theorem opcodes_decodeSub (w : Word) : (decodeSub w).opcodes = [-39] := by unfold decodeSub; split <;> rfl
theorem opcodes_decodeMul (w : Word) : (decodeMul w).opcodes = [-38] := by unfold decodeMul; split <;> rfl
theorem opcodes_decodeEcall (w : Word) : (decodeEcall w).opcodes = [-4] := by unfold decodeEcall; split <;> rfl
theorem opcodes_decodeTset (w : Word) : (decodeTset w).opcodes = [2] := by unfold decodeTset; split <;> rfl
theorem opcodes_decodeFcvt (w : Word) : (decodeFcvt w).opcodes = [13] := by unfold decodeFcvt; split <;> rfl
theorem opcodes_decodeVadd (w : Word) : (decodeVadd w).opcodes = [15] := by unfold decodeVadd; split <;> rfl
theorem opcodes_decodeVlog (w : Word) : (decodeVlog w).opcodes = [17] := by unfold decodeVlog; split <;> rfl
theorem opcodes_decodeVred (w : Word) : (decodeVred w).opcodes = [20] := by unfold decodeVred; split <;> rfl
theorem opcodes_decodeVperm (w : Word) : (decodeVperm w).opcodes = [21] := by unfold decodeVperm; split <;> rfl
theorem opcodes_decodeVmove (w : Word) : (decodeVmove w).opcodes = [22] := by unfold decodeVmove; split <;> rfl

/-- The opcode of a word is one of the opcodes of the instruction it decodes to (R120). -/
theorem opcodeOf_mem_opcodes (w : Word) : opcodeOf w ∈ (decode w).opcodes := by
  rw [opcodeOf_eq]
  unfold decode
  split <;>
    simp only [*, opcodes_decodeAdd, opcodes_decodeSub, opcodes_decodeMul, opcodes_decodeEcall, opcodes_decodeTset,
      opcodes_decodeFcvt, opcodes_decodeVadd, opcodes_decodeVlog, opcodes_decodeVred, opcodes_decodeVperm,
      opcodes_decodeVmove] <;>
    exact List.mem_of_elem_eq_true rfl

/-- An instruction with one opcode has it in each of its words. -/
theorem opcodeOf_eq_of_opcodes {w : Word} {c : Int} (h : (decode w).opcodes = [c]) : opcodeOf w = c := by
  simpa [h] using opcodeOf_mem_opcodes w

theorem decode_of_opcode_csrw {w : Word} (h : opcodeOf w = -6) :
    decode w = .csrw w.csrAt (w.regAt 7) (w.slice 4 3) (w.slice 13 14) := by
  have h0 : w.get 0 = .Z := get_of_opcode h (by decide)
  have h1 : w.get 1 = .P := get_of_opcode h (by decide)
  have h2 : w.get 2 = .N := get_of_opcode h (by decide)
  have h3 : w.get 3 = .Z := get_of_opcode h (by decide)
  simp [decode, h0, h1, h2, h3]

theorem decode_of_opcode_csrx {w : Word} (h : opcodeOf w = -5) :
    decode w = .csrx (w.regAt 4) (w.regAt 7) w.csrAt (w.slice 13 14) := by
  have h0 : w.get 0 = .P := get_of_opcode h (by decide)
  have h1 : w.get 1 = .P := get_of_opcode h (by decide)
  have h2 : w.get 2 = .N := get_of_opcode h (by decide)
  have h3 : w.get 3 = .Z := get_of_opcode h (by decide)
  simp [decode, h0, h1, h2, h3]

/-- The CSR field of a word holds the address of the CSR it names (R259). -/
theorem address_csrAt (w : Word) : w.csrAt.address = w.field 10 3 := by
  have hb := field_bounds w 10 3
  rw [show half3 3 = 13 by decide] at hb
  exact address_csrOfAddress hb.1 hb.2

/-! ### The instructions that write FLAGS, and those that write a vector register -/

/-- The instructions that write FLAGS: the ALU, the compares, the TFP operations of R322, and CSR writes to FLAGS. -/
def Instr.writesFlags : Instr → Bool
  | .add _ _ _ | .adds _ _ _ | .adc _ _ _ | .sub _ _ _ | .subs _ _ _ | .sbc _ _ _ => true
  | .mul _ _ _ | .mulh _ _ _ | .div _ _ _ | .mod _ _ _ | .neg _ _ => true
  | .tand _ _ _ | .tor _ _ _ | .tnot _ _ | .timpl _ _ _ => true
  | .cons _ _ _ | .acons _ _ _ | .tshift _ _ _ | .tcmp _ _ _ => true
  | .cmpi _ _ | .cmp _ _ => true
  | .fadd _ _ _ | .fsub _ _ _ | .fmul _ _ _ | .fdiv _ _ _ | .fcmp _ _ => true
  | .csrw c _ _ _ | .csrx _ _ c _ => c == .flags
  | _ => false

/-- The instructions whose destination is a vector register. -/
def Instr.writesVectors : Instr → Bool
  | .vadd _ _ _ | .vsub _ _ _ | .vmul _ _ _ => true
  | .vand _ _ _ | .vor _ _ _ | .vimpl _ _ _ | .vnot _ _ | .vcons _ _ _ | .vacons _ _ _ => true
  | .vsel _ _ _ _ | .vcmp _ _ _ => true
  | .vrotl _ _ _ | .vrotr _ _ _ | .vshl _ _ _ | .vshr _ _ _ | .vrev _ _ | .vshuf _ _ _ => true
  | .vmovGv _ _ | .vmovVv _ _ | .vbcast _ _ | .vins _ _ _ _ _ => true
  | _ => false

/-- The opcodes with which a word may write FLAGS (R32). -/
def flagOpcode (c : Int) : Bool :=
  inRange (-40) (-27) c || c == 4 || c == -18 || inRange 8 12 c || c == -6 || c == -5

/-- The opcodes with which a word may write a vector register: +15 to +22, VRED excepted. -/
def vectorOpcode (c : Int) : Bool := inRange 15 22 c && c != 20

/-- The opcodes of an instruction that writes FLAGS are those of R32. -/
theorem opcodes_all_flagOpcode (i : Instr) : (i.opcodes.all flagOpcode || !i.writesFlags) = true := by
  cases i <;> rfl

/-- The opcodes of an instruction that writes a vector register are those of R352. -/
theorem opcodes_all_vectorOpcode (i : Instr) : (i.opcodes.all vectorOpcode || !i.writesVectors) = true := by
  cases i <;> rfl

/-- A word of another opcode decodes to an instruction that does not write FLAGS. -/
theorem writesFlags_decode_eq_false {w : Word} (h : flagOpcode (opcodeOf w) = false) :
    (decode w).writesFlags = false := by
  have hall := opcodes_all_flagOpcode (decode w)
  rw [Bool.or_eq_true, List.all_eq_true, Bool.not_eq_true'] at hall
  exact hall.resolve_left fun hc => by simp [hc _ (opcodeOf_mem_opcodes w)] at h

/-- A word of another opcode decodes to an instruction that does not write a vector register. -/
theorem writesVectors_decode_eq_false {w : Word} (h : vectorOpcode (opcodeOf w) = false) :
    (decode w).writesVectors = false := by
  have hall := opcodes_all_vectorOpcode (decode w)
  rw [Bool.or_eq_true, List.all_eq_true, Bool.not_eq_true'] at hall
  exact hall.resolve_left fun hc => by simp [hc _ (opcodeOf_mem_opcodes w)] at h

/-- CSRW and CSRX write FLAGS only where the CSR field is its address (R28). -/
theorem beq_flags_csrAt {w : Word} (h : w.field 10 3 ≠ 3) : (w.csrAt == .flags) = false := by
  rw [beq_eq_false_iff_ne]
  intro hc
  exact h (by rw [← address_csrAt, hc]; rfl)

end Sys2Proof

namespace Sys2Proof.Machine

/-! ### What an instruction leaves of FLAGS and of the vector bank -/

/-- What instruction `i` may have changed, of FLAGS and of the vector bank. At depth N an exception is the machine-check
reset, which clears FLAGS (R436). -/
structure Footprint (i : Instr) (s t : State) : Prop where
  flags : s.depth ≠ .N → i.writesFlags = false → t.flagSign = s.flagSign ∧ t.flagCarry = s.flagCarry
  vectors : i.writesVectors = false → t.vregs = s.vregs

theorem Footprint.of_unchanged {i : Instr} {s t : State} (hs : t.flagSign = s.flagSign) (hc : t.flagCarry = s.flagCarry)
    (hv : t.vregs = s.vregs) : Footprint i s t := ⟨fun _ _ => ⟨hs, hc⟩, fun _ => hv⟩

theorem Footprint.of_writesFlags {i : Instr} {s t : State} (hi : i.writesFlags = true) (hv : t.vregs = s.vregs) :
    Footprint i s t := ⟨fun _ h => by simp [hi] at h, fun _ => hv⟩

theorem Footprint.of_writesVectors {i : Instr} {s t : State} (hi : i.writesVectors = true)
    (hs : t.flagSign = s.flagSign) (hc : t.flagCarry = s.flagCarry) : Footprint i s t :=
  ⟨fun _ _ => ⟨hs, hc⟩, fun h => by simp [hi] at h⟩

theorem footprint_trap (i : Instr) (s : State) (c : Int) (v e : Word) : Footprint i s (s.trap c v e) := by
  refine ⟨fun hd _ => ?_, fun _ => State.trap_vregs s c v e⟩
  rcases s.trap_cases c v e with ⟨-, h⟩ | ⟨-, h⟩ | ⟨h, -⟩
  · rw [h]; exact ⟨rfl, rfl⟩
  · rw [h]; exact ⟨rfl, rfl⟩
  · exact absurd h hd

theorem footprint_advance (i : Instr) (s : State) : Footprint i s s.advance :=
  .of_unchanged (by simp) (by simp) (by simp)

theorem footprint_jump (i : Instr) (s : State) (a : Word) : Footprint i s (s.jump a) := .of_unchanged rfl rfl rfl

theorem footprint_branchIf (i : Instr) (s : State) (b : Bool) (o : Int) : Footprint i s (s.branchIf b o) := by
  unfold State.branchIf
  split
  · exact footprint_jump i s _
  · exact footprint_advance i s

theorem footprint_regWrite (i : Instr) (s : State) (r : Reg) (v : Word) : Footprint i s (s.regWrite r v) :=
  .of_unchanged (by simp [State.regWrite]) (by simp [State.regWrite]) (by simp [State.regWrite])

theorem footprint_drawFree_regWrite (i : Instr) (s : State) (r : Reg) (v : Word) :
    Footprint i s (s.drawFree.2.regWrite r v) :=
  .of_unchanged (by simp [State.regWrite]) (by simp [State.regWrite]) (by simp [State.regWrite])

theorem footprint_setTrit (i : Instr) (s : State) (a b c : Reg) (t : Trit) : Footprint i s (s.setTrit a b c t) := by
  unfold State.setTrit
  split
  · exact footprint_regWrite i s _ _
  · exact footprint_drawFree_regWrite i s _ _

theorem footprint_tfpToInt (i : Instr) (s : State) (o : TfpOp) (f : Rat → Int) (a b : Reg) :
    Footprint i s (s.tfpToInt o f a b) := by
  unfold State.tfpToInt
  dsimp only
  split
  · split
    · exact footprint_regWrite i s _ _
    · exact footprint_drawFree_regWrite i s _ _
  · exact footprint_drawFree_regWrite i s _ _

theorem footprint_aluWrite {i : Instr} (hi : i.writesFlags = true) (s : State) (r : Reg) (v : Word) (c : Trit) :
    Footprint i s (s.aluWrite r v c) := .of_writesFlags hi (by simp [State.aluWrite])

theorem footprint_compareWrite {i : Instr} (hi : i.writesFlags = true) (s : State) (d : Int) :
    Footprint i s (s.compareWrite d) := .of_writesFlags hi (by simp [State.compareWrite])

theorem footprint_tfpBinary {i : Instr} (hi : i.writesFlags = true) (s : State) (o : TfpOp) (f : Tfp → Tfp → Word)
    (a b c : Reg) : Footprint i s (s.tfpBinary o f a b c) := by
  refine .of_writesFlags hi ?_
  unfold State.tfpBinary
  dsimp only
  split <;> simp [State.tfpWrite]

theorem footprint_vregWrite {i : Instr} (hi : i.writesVectors = true) (s : State) (r : VReg) (v : Word) :
    Footprint i s (s.vregWrite r v) := .of_writesVectors hi rfl rfl

/-- The end of an instruction that can raise: its body, where that ends normally, decides. -/
theorem footprint_finish {i : Instr} {s t : State} {x : Except Stop State} (h : finish s x = .next t)
    (hx : ∀ u, x = .ok u → Footprint i s u) : Footprint i s t := by
  rcases finish_next h with hok | ⟨c, v, -, rfl⟩
  · exact hx t hok
  · exact footprint_trap i s c v s.pc

/-- Only a write to FLAGS changes FLAGS among the CSR writes. -/
theorem State.csrWrite_flags {s t : State} {c : Csr} {v raw : Word} (h : s.csrWrite c v raw = .ok t)
    (hc : c ≠ .flags) : t.flagSign = s.flagSign ∧ t.flagCarry = s.flagCarry := by
  cases c
  case pc => cases h
  case flags => exact absurd rfl hc
  case status =>
    simp only [State.csrWrite] at h
    cases hr : statusRefusal v <;> simp only [hr, reduceCtorEq, Except.ok.injEq] at h
    subst h
    exact ⟨rfl, rfl⟩
  case mpuSelect | mpuCfg =>
    simp only [State.csrWrite] at h
    split at h <;> cases h
    exact ⟨rfl, rfl⟩
  all_goals
    cases h
    exact ⟨rfl, rfl⟩

theorem footprint_csrWrite {i : Instr} {s t : State} {c : Csr} {v raw : Word} (hi : i.writesFlags = (c == .flags))
    (h : s.csrWrite c v raw = .ok t) : Footprint i s t :=
  ⟨fun _ hf => State.csrWrite_flags h (by simpa [hi] using hf), fun _ => (State.csrWrite_frame h).2.1⟩

/-! ### The bodies of the instructions that can raise -/

/-- What follows a read of memory that goes through gets some word. -/
theorem State.readMem_map_ok {s t : State} {a : Word} {f : Word → State} (h : (s.readMem a).map f = .ok t) :
    ∃ v, t = f v := by
  cases hr : s.readMem a with
  | error e => rw [hr] at h; cases h
  | ok v => rw [hr] at h; exact ⟨v, by cases h; rfl⟩

/-- What follows a store that goes through gets the state with the word stored. -/
theorem State.writeMem_map_ok {s t : State} {a v : Word} {f : State → State} (h : (s.writeMem a v).map f = .ok t) :
    t = f { s with mem := s.mem.write a.val v } := by
  cases hw : s.writeMem a v with
  | error e => rw [hw] at h; cases h
  | ok u => rw [hw] at h; rw [← State.writeMem_ok hw]; cases h; rfl

theorem State.csrLoad_ok {s t : State} {rd : Reg} {c : Csr} {raw : Word} (h : s.csrLoad rd c raw = .ok t) :
    t = (s.csrRead c).2.regWrite rd (s.csrRead c).1 := by
  unfold State.csrLoad at h
  cases hc : s.csrCheck c raw with
  | error e => rw [hc] at h; cases h
  | ok _ => rw [hc] at h; simpa [Except.map] using h.symm

theorem State.csrStore_ok {s t : State} {c : Csr} {rs1 : Reg} {raw : Word} (h : s.csrStore c rs1 raw = .ok t) :
    ∃ u, s.csrWrite c (s.reg rs1) raw = .ok u ∧ t = u.advance := by
  unfold State.csrStore at h
  cases hc : s.csrCheck c raw with
  | error e => rw [hc] at h; cases h
  | ok _ =>
    rw [hc] at h
    simp only [Except.bind] at h
    cases hw : s.csrWrite c (s.reg rs1) raw with
    | error e => rw [hw] at h; cases h
    | ok u => rw [hw] at h; exact ⟨u, rfl, by simpa [Except.map] using h.symm⟩

theorem State.csrExchange_ok {s t : State} {rd rs1 : Reg} {c : Csr} {raw : Word}
    (h : s.csrExchange rd rs1 c raw = .ok t) :
    ∃ u, (s.csrRead c).2.csrWrite c (s.reg rs1) raw = .ok u ∧ t = (u.setReg rd (s.csrRead c).1).advance := by
  unfold State.csrExchange at h
  cases hc : s.csrCheck c raw with
  | error e => rw [hc] at h; cases h
  | ok _ =>
    rw [hc] at h
    simp only [Except.bind] at h
    cases hw : (s.csrRead c).2.csrWrite c (s.reg rs1) raw with
    | error e => rw [hw] at h; cases h
    | ok u => rw [hw] at h; exact ⟨u, rfl, by simpa [Except.map] using h.symm⟩

theorem footprint_ite_aluWrite {i : Instr} (hi : i.writesFlags = true) {s u : State} {z : Prop} [Decidable z] {e : Stop}
    {r : Reg} {v : Word} {c : Trit} (h : (if z then .error e else .ok (s.aluWrite r v c) : Except Stop State) = .ok u) :
    Footprint i s u := by
  split at h
  · cases h
  · rw [← Except.ok.inj h]
    exact footprint_aluWrite hi s r v c

theorem State.depth_csrRead (s : State) (c : Csr) : (s.csrRead c).2.depth = s.depth := by
  rw [State.csrRead_state_eq]
  split <;> rfl

theorem footprint_csrRead (i : Instr) (s : State) (c : Csr) : Footprint i s (s.csrRead c).2 := by
  rw [State.csrRead_state_eq]
  split <;> exact .of_unchanged rfl rfl rfl

/-- Footprints compose, where the first part keeps the depth. -/
theorem Footprint.trans {i : Instr} {s t u : State} (h : Footprint i s t) (hd : t.depth = s.depth)
    (k : Footprint i t u) : Footprint i s u := by
  refine ⟨fun hN hf => ?_, fun hf => (k.vectors hf).trans (h.vectors hf)⟩
  obtain ⟨hs, hc⟩ := h.flags hN hf
  obtain ⟨ks, kc⟩ := k.flags (hd ▸ hN) hf
  exact ⟨ks.trans hs, kc.trans hc⟩

theorem footprint_csrLoad {s u : State} {rd : Reg} {c : Csr} {raw : Word} (i : Instr)
    (h : s.csrLoad rd c raw = .ok u) : Footprint i s u := by
  rw [State.csrLoad_ok h]
  exact (footprint_csrRead i s c).trans (s.depth_csrRead c) (footprint_regWrite i _ _ _)

theorem footprint_csrStore {s u : State} {c : Csr} {rs1 : Reg} {raw : Word} {i : Instr}
    (hi : i.writesFlags = (c == .flags)) (h : s.csrStore c rs1 raw = .ok u) : Footprint i s u := by
  obtain ⟨v, hw, rfl⟩ := State.csrStore_ok h
  have hf := footprint_csrWrite hi hw
  exact ⟨fun hN hc => by simpa using hf.flags hN hc, fun hv => by simpa using hf.vectors hv⟩

theorem footprint_csrExchange {s u : State} {rd rs1 : Reg} {c : Csr} {raw : Word} {i : Instr}
    (hi : i.writesFlags = (c == .flags)) (h : s.csrExchange rd rs1 c raw = .ok u) : Footprint i s u := by
  obtain ⟨v, hw, rfl⟩ := State.csrExchange_ok h
  have hf := (footprint_csrRead i s c).trans (s.depth_csrRead c) (footprint_csrWrite hi hw)
  exact ⟨fun hN hc => by simpa using hf.flags hN hc, fun hv => by simpa using hf.vectors hv⟩

theorem footprint_exceptionReturn (i : Instr) {s u : State} (h : s.exceptionReturn = .ok u) : Footprint i s u := by
  rcases State.exceptionReturn_ok h with ⟨-, -, rfl⟩ | ⟨-, -, rfl⟩ <;> exact .of_unchanged rfl rfl rfl

/-! ### The instructions with more than one end -/

theorem footprint_fcmp {rs1 rs2 : Reg} {s t : State} (h : execFcmp rs1 rs2 s = .next t) :
    Footprint (.fcmp rs1 rs2) s t := by
  unfold execFcmp at h
  dsimp only at h
  split at h <;> rw [next_inj h] <;> exact .of_writesFlags rfl (by simp)

theorem footprint_tsel {rd rn rz rp : Reg} {s t : State} (h : execTsel rd rn rz rp s = .next t) (i : Instr) :
    Footprint i s t := by
  unfold execTsel at h
  split at h <;> rw [next_inj h] <;> exact footprint_regWrite i s rd _

theorem footprint_tget {rd rs1 rs2 : Reg} {s t : State} (h : execTget rd rs1 rs2 s = .next t) (i : Instr) :
    Footprint i s t := by
  unfold execTget at h
  split at h <;> rw [next_inj h]
  · exact footprint_regWrite i s rd _
  · exact footprint_drawFree_regWrite i s rd _

theorem footprint_brt3 {rX : Reg} {offZ offN : Int} {s t : State} (h : execBrt3 rX offZ offN s = .next t) (i : Instr) :
    Footprint i s t := by
  unfold execBrt3 at h
  split at h <;> rw [next_inj h]
  · exact footprint_advance i s
  · exact footprint_jump i s _
  · exact footprint_jump i s _

theorem footprint_call {off : Int} {s t : State} (h : execCall off s = .next t) (i : Instr) : Footprint i s t := by
  unfold execCall at h
  rw [next_inj h]
  exact .of_unchanged (by simp) (by simp) (by simp)

theorem footprint_vshuf {vd vs1 vs2 : VReg} {s t : State} (h : execVshuf vd vs1 vs2 s = .next t) :
    Footprint (.vshuf vd vs1 vs2) s t := by
  unfold execVshuf at h
  rw [next_inj h]
  exact .of_writesVectors rfl (by simp [State.vregWrite]) (by simp [State.vregWrite])

theorem footprint_vins {vd : VReg} {rs1 : Reg} {lane : Int} {lo : Trits 3} {hi : Trits 8} {s t : State}
    (h : execVins vd rs1 lane lo hi s = .next t) : Footprint (.vins vd rs1 lane lo hi) s t := by
  unfold execVins at h
  split at h <;> rw [next_inj h]
  · exact footprint_trap _ s _ _ _
  · exact footprint_vregWrite rfl s vd _

theorem footprint_vext {rd : Reg} {vs1 : VReg} {lane : Int} {lo : Trits 3} {hi : Trits 8} {s t : State}
    (h : execVext rd vs1 lane lo hi s = .next t) (i : Instr) : Footprint i s t := by
  unfold execVext at h
  split at h <;> rw [next_inj h]
  · exact footprint_trap i s _ _ _
  · exact footprint_regWrite i s rd _

/-- Every instruction stays within its footprint: by the end that its meaning has. -/
theorem exec_footprint {i : Instr} {s t : State} (h : exec i s = .next t) : Footprint i s t := by
  cases i with
  | add _ _ _ | adds _ _ _ | adc _ _ _ | sub _ _ _ | subs _ _ _ | sbc _ _ _ | mul _ _ _ | mulh _ _ _ | neg _ _
  | tand _ _ _ | tor _ _ _ | tnot _ _ | timpl _ _ _ | cons _ _ _ | acons _ _ _ | tshift _ _ _ | tcmp _ _ _ =>
    cases next_inj h
    exact footprint_aluWrite rfl _ _ _ _
  | div _ _ _ | mod _ _ _ => exact footprint_finish h fun _ hu => footprint_ite_aluWrite rfl hu
  | cmpi _ _ | cmp _ _ =>
    cases next_inj h
    exact footprint_compareWrite rfl _ _
  | fadd _ _ _ | fsub _ _ _ | fmul _ _ _ | fdiv _ _ _ =>
    cases next_inj h
    exact footprint_tfpBinary rfl _ _ _ _ _ _
  | fcmp _ _ => exact footprint_fcmp h
  | li _ _ | lui _ _ | addi _ _ _ | tsign _ _ | tabs _ _ | tmin _ _ | tmax _ _ | ficvt _ _ | vredSum _ _
  | vredSign _ _ | vredCons _ _ | vredLst _ _ | vredMst _ _ | vredAnd _ _ | vredOr _ _ | vmovVg _ _ =>
    cases next_inj h
    exact footprint_regWrite _ _ _ _
  | load _ _ _ =>
    refine footprint_finish h fun u hu => ?_
    obtain ⟨v, rfl⟩ := State.readMem_map_ok hu
    exact footprint_regWrite _ _ _ _
  | store _ _ _ =>
    refine footprint_finish h fun u hu => ?_
    rw [State.writeMem_map_ok hu]
    exact .of_unchanged (by simp) (by simp) (by simp)
  | tsel _ _ _ _ => exact footprint_tsel h _
  | tget _ _ _ => exact footprint_tget h _
  | tsetn _ _ _ | tsetz _ _ _ | tsetp _ _ _ =>
    cases next_inj h
    exact footprint_setTrit _ _ _ _ _ _
  | fcvti _ _ | fcvtiz _ _ =>
    cases next_inj h
    exact footprint_tfpToInt _ _ _ _ _ _
  | brt3 _ _ _ => exact footprint_brt3 h _
  | beq _ _ | bne _ _ | blt _ _ | bgt _ _ | ble _ _ | bge _ _ | bf _ _ _ _ =>
    cases next_inj h
    exact footprint_branchIf _ _ _ _
  | jmpa _ _ | jmp _ =>
    cases next_inj h
    exact footprint_jump _ _ _
  | call _ => exact footprint_call h _
  | nop => cases next_inj h; exact footprint_advance _ _
  | halt => cases next_inj h; exact .of_unchanged rfl rfl rfl
  | csrr _ _ _ _ => exact footprint_finish h fun _ hu => footprint_csrLoad _ hu
  | csrw _ _ _ _ => exact footprint_finish h fun _ hu => footprint_csrStore rfl hu
  | csrx _ _ _ _ => exact footprint_finish h fun _ hu => footprint_csrExchange rfl hu
  | iret => exact footprint_finish h fun _ hu => footprint_exceptionReturn _ hu
  | ecall | hcall | dbgbrk | illegalMul _ | illegalVadd _ | illegalVlog _ | illegalVred _ | illegalVperm _
  | illegalVmove _ | reservedOpcode _ | customOpcode _ =>
    cases next_inj h
    exact footprint_trap _ _ _ _ _
  | vadd _ _ _ | vsub _ _ _ | vmul _ _ _ | vand _ _ _ | vor _ _ _ | vimpl _ _ _ | vnot _ _ | vcons _ _ _ | vacons _ _ _
  | vsel _ _ _ _ | vcmp _ _ _ | vrotl _ _ _ | vrotr _ _ _ | vshl _ _ _ | vshr _ _ _ | vrev _ _ | vmovGv _ _
  | vmovVv _ _ | vbcast _ _ =>
    cases next_inj h
    exact footprint_vregWrite rfl _ _ _
  | vshuf _ _ _ => exact footprint_vshuf h
  | vins _ _ _ _ _ => exact footprint_vins h
  | vext _ _ _ _ _ => exact footprint_vext h _

/-! ### Memory -/

/-- Only STORE changes memory. -/
theorem exec_mem {i : Instr} {s t : State} (h : exec i s = .next t) (hi : ∀ rsrc rs1 imm, i ≠ .store rsrc rs1 imm) :
    t.mem = s.mem := by
  cases exec_effect h with
  | trap _ c v => exact State.trap_mem s c v s.pc
  | quiet hq => exact hq.mem
  | store rsrc rs1 imm => exact absurd rfl (hi rsrc rs1 imm)
  | csrr rd c lo hi hc =>
    rw [(registersOnly_regWrite _ _ _).mem, State.csrRead_state_eq]
    split <;> rfl
  | csrw c rs1 lo hi u raw hc hw =>
    obtain ⟨-, -, -, hmem, -⟩ := State.csrWrite_frame hw
    rw [(registersOnly_advance u).mem, hmem]
  | csrx rd rs1 c hi u raw hc hw =>
    obtain ⟨-, -, -, hmem, -⟩ := State.csrWrite_frame hw
    rw [((registersOnly_setReg u _ _).trans (registersOnly_advance _)).mem, hmem, State.csrRead_state_eq]
    split <;> rfl
  | iret hr => rcases State.exceptionReturn_ok hr with ⟨-, -, rfl⟩ | ⟨-, -, rfl⟩ <;> rfl
  | halt => rfl

/-- Settles O58: the opcodes of R32 and R352 are those of the instructions that write FLAGS and the vector bank; with
the opcode of a CSR write the CSR field decides. -/
theorem onlyNamedWriters : Obligations.OnlyNamedWriters := by
  intro w s t h
  refine ⟨fun hop a => ?_, fun hop => ?_, fun hd halu hcmp hcmpi htfp hcsr => ?_⟩
  · rw [exec_mem h fun rsrc rs1 imm hi => hop (opcodeOf_eq_of_opcodes (by rw [hi]; rfl))]
  · refine (exec_footprint h).vectors (writesVectors_decode_eq_false ?_)
    simp only [vectorOpcode, inRange, Bool.and_eq_false_iff, decide_eq_false_iff_not, bne_eq_false_iff_eq]
    omega
  · refine (exec_footprint h).flags hd ?_
    by_cases hw : opcodeOf w = -6
    · rw [decode_of_opcode_csrw hw]
      exact beq_flags_csrAt fun hf => hcsr ⟨.inl hw, hf⟩
    by_cases hx : opcodeOf w = -5
    · rw [decode_of_opcode_csrx hx]
      exact beq_flags_csrAt fun hf => hcsr ⟨.inr hx, hf⟩
    · refine writesFlags_decode_eq_false ?_
      simp only [flagOpcode, inRange, Bool.or_eq_false_iff, Bool.and_eq_false_iff, decide_eq_false_iff_not,
        beq_eq_false_iff_ne]
      omega

end Sys2Proof.Machine
end

section
/-! SUPPORT. Memory, the MPU check, and the accesses and fetches that trap (MemoryReadAfterWrite, MpuCheckDecides,
AccessTraps). -/

namespace Sys2Proof.Machine

/-! ### Memory -/

/-- Settles O19: the read laws of a canonical memory, at the address of a word. -/
theorem memoryReadAfterWrite : Obligations.MemoryReadAfterWrite := fun m a v hm =>
  ⟨Memory.read_write_same hm a.val v, fun _ hb => Memory.read_write_ne m v hb, Memory.wf_write hm a v⟩

/-! ### The MPU check -/

theorem MpuDesc.covers_iff (d : MpuDesc) (a : Int) :
    d.covers a = true ↔ d.valid = .P ∧ d.base.val ≤ a ∧ a < d.base.val + pow3 d.size.val.toNat := by
  simp [MpuDesc.covers, and_assoc]

/-- No region decides where none covers the address. -/
theorem State.mpuRegion_eq_none {s : State} {a : Int} (h : ∀ i : Fin 9, s.mpu[i].covers a = false) :
    s.mpuRegion a = none := by
  refine List.find?_eq_none.2 fun d hd => ?_
  obtain ⟨i, hi, rfl⟩ := Vector.mem_iff_getElem.1 (Vector.mem_toList_iff.1 hd)
  exact Bool.eq_false_iff.1 (h ⟨i, hi⟩)

/-- The covering region of lowest index decides. -/
theorem State.mpuRegion_eq_some {s : State} {a : Int} {i : Fin 9} (hi : s.mpu[i].covers a = true)
    (hlow : ∀ j : Fin 9, j < i → s.mpu[j].covers a = false) : s.mpuRegion a = some s.mpu[i] := by
  refine List.find?_eq_some_iff_getElem.2 ⟨hi, i, by simp, by simp, fun j hj => ?_⟩
  simpa using hlow ⟨j, by omega⟩ hj

theorem State.mpuCheck_of_mpuRegion_none {s : State} {a : Int} (h : s.mpuRegion a = none) (ty : Access) :
    (s.mode = .N → s.mpuCheck a ty = .allow) ∧ (s.mode = .P → s.mpuCheck a ty = .deny) :=
  ⟨fun hm => by simp [State.mpuCheck, hm, h], fun hm => by simp [State.mpuCheck, hm, h]⟩

/-- The permission trit of the deciding region: N denies kernel mode, all but P denies user mode (R83). -/
theorem State.mpuCheck_of_mpuRegion_some {s : State} {a : Int} {d : MpuDesc} (h : s.mpuRegion a = some d)
    (ty : Access) :
    (s.mode = .N → s.mpuCheck a ty = if d.perm ty = .N then .deny else .allow) ∧
      (s.mode = .P → s.mpuCheck a ty = if d.perm ty = .P then .allow else .deny) :=
  ⟨fun hm => by simp [State.mpuCheck, hm, h], fun hm => by simp [State.mpuCheck, hm, h]⟩

/-- Settles O18: the deciding region by the indices, then its permission trit in each of the two modes. -/
theorem mpuCheckDecides : Obligations.MpuCheckDecides := by
  intro s a ty
  refine ⟨fun d => d.covers_iff a, fun hnone => State.mpuCheck_of_mpuRegion_none (State.mpuRegion_eq_none hnone) ty,
    fun i hi hlow => ?_⟩
  obtain ⟨hkernel, huser⟩ := State.mpuCheck_of_mpuRegion_some (State.mpuRegion_eq_some hi hlow) ty
  refine ⟨fun hp hm => ?_, fun hp => ⟨fun hm => ?_, fun hm => ?_⟩, fun hp hm => ?_⟩
  · cases hmode : s.mode with
    | N => rw [hkernel hmode, if_pos hp]
    | Z => exact absurd hmode hm
    | P => rw [huser hmode, hp, if_neg (by decide)]
  · rw [hkernel hm, hp, if_neg (by decide)]
  · rw [huser hm, hp, if_neg (by decide)]
  · cases hmode : s.mode with
    | N => rw [hkernel hmode, hp, if_neg (by decide)]
    | Z => exact absurd hmode hm
    | P => rw [huser hmode, if_pos hp]

/-! ### Accesses that stop -/

theorem exec_load_stop {s : State} {rd rs1 : Reg} {imm : Int} {e : Stop}
    (h : s.checkAccess (s.effectiveAddress rs1 imm) .read = .error e) :
    exec (.load rd rs1 imm) s = finish s (.error e) := by
  show finish s ((s.readMem _).map _) = _
  rw [State.readMem, h]
  rfl

theorem exec_store_stop {s : State} {rsrc rs1 : Reg} {imm : Int} {e : Stop}
    (h : s.checkAccess (s.effectiveAddress rs1 imm) .write = .error e) :
    exec (.store rsrc rs1 imm) s = finish s (.error e) := by
  show finish s ((s.writeMem _ _).map _) = _
  rw [State.writeMem, h]
  rfl

/-- A step at which no line is taken stops where the access check of its fetch stops. -/
theorem step_fetch_stop {s : State} {e : Stop} (hh : s.halted = false) (hl : statusLegal s.status = true)
    (hi : s.sampleLines.2.interruptLine s.sampleLines.1 = none)
    (h : s.sampleLines.2.checkAccess s.pc .fetch = .error e) : step s = finish s.sampleLines.2 (.error e) := by
  have hf : s.sampleLines.2.fetch = .error e := by
    rw [State.fetch, State.sampleLines_pc, h]
    rfl
  rw [step_eq hh hl hi, hf]

@[simp] theorem State.kindAt_sampleLines (s : State) (a : Int) : s.sampleLines.2.kindAt a = s.kindAt a := by
  simp [State.kindAt]

/-- Settles O16: the access check stops with EXC_FAULT or the MPU cause, and LOAD, STORE and the fetch stop with it. -/
theorem accessTraps : Obligations.AccessTraps := by
  refine ⟨fun rd rs1 imm s => ⟨fun hk => ⟨?_, ?_⟩, fun hk hm => ?_, fun hk hm => ?_⟩,
    fun s hh hl hi => ⟨fun hk => ?_, fun hk hm => ?_⟩⟩
  · exact exec_load_stop (State.checkAccess_missing hk)
  · exact exec_store_stop (State.checkAccess_missing hk)
  · exact exec_load_stop (State.checkAccess_denied hk hm)
  · exact exec_store_stop (State.checkAccess_denied hk hm)
  · have hstop := State.checkAccess_missing (ty := .fetch) ((s.kindAt_sampleLines s.pc.val).trans hk)
    rw [step_fetch_stop hh hl hi hstop, finish_exc, State.sampleLines_pc]
    rfl
  · have hstop := State.checkAccess_denied (by rwa [State.kindAt_sampleLines]) hm
    rw [step_fetch_stop hh hl hi hstop, finish_exc, State.sampleLines_pc]
    rfl

end Sys2Proof.Machine
end

section
/-! SUPPORT. The encoder and the decoder undo each other (DecodeEncode, WorkedEncodings): where a field stands in an
assembled word, and which words lie in the illegal and reserved rows. -/

namespace Sys2Proof

/-! ### Fields laid end to end -/

@[simp] theorem length_intTrits (n : Nat) (v : Int) : (intTrits n v).length = n := by simp [intTrits]

@[simp] theorem length_regTrits (r : Fin 27) : (regTrits r).length = 3 := length_intTrits 3 _

@[simp] theorem Trits.length_list {n : Nat} (x : Trits n) : x.list.length = n := by simp [Trits.list]

theorem getD_intTrits (v : Int) {n k : Nat} (h : k < n) : (intTrits n v).getD k .Z = digit k v := by
  simp [intTrits, h]

theorem Trits.getD_list {n k : Nat} (x : Trits n) (h : k < n) : x.list.getD k .Z = x.get k := by
  simp [Trits.list, h]

/-- A field behind `lo` trits starts at trit `lo` of the word. -/
theorem get_assemble_append (pre post : List (List Trit)) {f : List Trit} {lo k : Nat}
    (hlo : pre.flatten.length = lo) (hk : k < f.length) (h : lo + k < 27) :
    (assemble (pre ++ f :: post)).get (lo + k) = f.getD k .Z := by
  subst hlo
  rw [get_assemble _ h, List.flatten_append, List.flatten_cons, List.getD_append_right _ _ _ _ (by omega),
    List.getD_append _ _ _ _ (by omega), Nat.add_sub_cancel_left]

/-- An integer in the range of its field is read back from it (R122). -/
theorem field_assemble (pre post : List (List Trit)) {v : Int} {lo n : Nat} (hlo : pre.flatten.length = lo)
    (hn : lo + n ≤ 27) (hv : inRange (-half3 n) (half3 n) v = true) :
    (assemble (pre ++ intTrits n v :: post)).field lo n = v := by
  obtain ⟨h1, h2⟩ : -half3 n ≤ v ∧ v ≤ half3 n := by simpa [inRange] using hv
  refine field_of_trits (fun k hk => ?_) h1 h2
  rw [get_assemble_append pre post hlo (by simpa using hk) (by omega), getD_intTrits v hk]

/-- A register is read back from its field (R116). -/
theorem regAt_assemble (pre post : List (List Trit)) (r : Fin 27) {lo : Nat} (hlo : pre.flatten.length = lo)
    (hn : lo + 3 ≤ 27) : (assemble (pre ++ regTrits r :: post)).regAt lo = r :=
  regAt_of_trits fun k hk => by
    rw [get_assemble_append pre post hlo (by simpa using hk) (by omega), regTrits, getD_intTrits _ hk]

/-- A kept slice is read back from its place (R123). -/
theorem slice_assemble (pre post : List (List Trit)) {lo n : Nat} (x : Trits n) (hlo : pre.flatten.length = lo)
    (hn : lo + n ≤ 27) : (assemble (pre ++ x.list :: post)).slice lo n = x :=
  slice_of_trits fun k hk => by
    rw [get_assemble_append pre post hlo (by simpa using hk) (by omega), x.getD_list hk]

/-! ### The fields of each format (R114–R119)

`[a, b, c, d]` is the opcode; `f1`, `f2`, … are the fields between it and the field that is read. -/

theorem half3_10 : half3 10 = 29524 := by decide
theorem half3_17 : half3 17 = 64570081 := by decide
theorem half3_20 : half3 20 = 1743392200 := by decide
theorem half3_23 : half3 23 = 47071589413 := by decide
theorem half3_3 : half3 3 = 13 := by decide

section
variable {a b c d : Trit} {f1 f2 f3 f4 f5 : List Trit} {rest : List (List Trit)}

@[simp] theorem get_assemble_0 : (assemble ([a, b, c, d] :: rest)).get 0 = a := get_assemble _ (by decide)
@[simp] theorem get_assemble_1 : (assemble ([a, b, c, d] :: rest)).get 1 = b := get_assemble _ (by decide)
@[simp] theorem get_assemble_2 : (assemble ([a, b, c, d] :: rest)).get 2 = c := get_assemble _ (by decide)
@[simp] theorem get_assemble_3 : (assemble ([a, b, c, d] :: rest)).get 3 = d := get_assemble _ (by decide)

/-! The mask of BF (R239) -/

@[simp] theorem get_assemble_4 (t u v : Trit) : (assemble ([a, b, c, d] :: [t, u, v] :: rest)).get 4 = t :=
  get_assemble _ (by decide)
@[simp] theorem get_assemble_5 (t u v : Trit) : (assemble ([a, b, c, d] :: [t, u, v] :: rest)).get 5 = u :=
  get_assemble _ (by decide)
@[simp] theorem get_assemble_6 (t u v : Trit) : (assemble ([a, b, c, d] :: [t, u, v] :: rest)).get 6 = v :=
  get_assemble _ (by decide)

/-! Registers, the selector and the CSR -/

@[simp] theorem regAt_assemble_4 (r : Fin 27) : (assemble ([a, b, c, d] :: regTrits r :: rest)).regAt 4 = r :=
  regAt_assemble [[a, b, c, d]] rest r rfl (by decide)

@[simp] theorem regAt_assemble_7 (r : Fin 27) (h1 : f1.length = 3) :
    (assemble ([a, b, c, d] :: f1 :: regTrits r :: rest)).regAt 7 = r :=
  regAt_assemble [[a, b, c, d], f1] rest r (by simp [h1]) (by decide)

@[simp] theorem regAt_assemble_10 (r : Fin 27) (h1 : f1.length = 3) (h2 : f2.length = 3) :
    (assemble ([a, b, c, d] :: f1 :: f2 :: regTrits r :: rest)).regAt 10 = r :=
  regAt_assemble [[a, b, c, d], f1, f2] rest r (by simp [h1, h2]) (by decide)

@[simp] theorem regAt_assemble_13 (r : Fin 27) (h1 : f1.length = 3) (h2 : f2.length = 3) (h3 : f3.length = 3) :
    (assemble ([a, b, c, d] :: f1 :: f2 :: f3 :: regTrits r :: rest)).regAt 13 = r :=
  regAt_assemble [[a, b, c, d], f1, f2, f3] rest r (by simp [h1, h2, h3]) (by decide)

/-- funct[k], the first three fields behind the opcode having their width. -/
theorem get_assemble_funct (fs : List Trit) {k : Nat} (h1 : f1.length = 3) (h2 : f2.length = 3) (h3 : f3.length = 3)
    (hk : k < fs.length) (h : 13 + k < 27) :
    (assemble ([a, b, c, d] :: f1 :: f2 :: f3 :: fs :: rest)).get (13 + k) = fs.getD k .Z :=
  get_assemble_append [[a, b, c, d], f1, f2, f3] rest (by simp [h1, h2, h3]) hk h

@[simp] theorem get_assemble_13 (t : Trit) (h1 : f1.length = 3) (h2 : f2.length = 3) (h3 : f3.length = 3) :
    (assemble ([a, b, c, d] :: f1 :: f2 :: f3 :: [t] :: rest)).get 13 = t :=
  get_assemble_funct [t] (k := 0) h1 h2 h3 (by simp) (by decide)

@[simp] theorem selector_assemble (t u v : Trit) (h1 : f1.length = 3) (h2 : f2.length = 3) (h3 : f3.length = 3) :
    (assemble ([a, b, c, d] :: f1 :: f2 :: f3 :: [t, u, v] :: rest)).selector = (t, u, v) := by
  have hget {k : Nat} (hk : k < 3) :
      (assemble ([a, b, c, d] :: f1 :: f2 :: f3 :: [t, u, v] :: rest)).get (13 + k) = [t, u, v].getD k .Z :=
    get_assemble_funct [t, u, v] h1 h2 h3 (by simpa using hk) (by omega)
  exact Prod.ext (hget (k := 0) (by decide)) (Prod.ext (hget (k := 1) (by decide)) (hget (k := 2) (by decide)))

@[simp] theorem csrAt_assemble (csr : Csr) (h1 : f1.length = 3) (h2 : f2.length = 3) :
    (assemble ([a, b, c, d] :: f1 :: f2 :: intTrits 3 csr.address :: rest)).csrAt = csr :=
  csrAt_of_trits fun k hk => by
    rw [← getD_intTrits _ hk]
    exact get_assemble_append [[a, b, c, d], f1, f2] rest (by simp [h1, h2]) (by simpa using hk) (by omega)

/-! The kept trits of CSRR, CSRW, CSRX, VINS and VEXT (R123) -/

@[simp] theorem slice_assemble_4 (x : Trits 3) : (assemble ([a, b, c, d] :: x.list :: rest)).slice 4 3 = x :=
  slice_assemble [[a, b, c, d]] rest x rfl (by decide)

@[simp] theorem slice_assemble_7 (x : Trits 3) (h1 : f1.length = 3) :
    (assemble ([a, b, c, d] :: f1 :: x.list :: rest)).slice 7 3 = x :=
  slice_assemble [[a, b, c, d], f1] rest x (by simp [h1]) (by decide)

@[simp] theorem slice_assemble_10 (x : Trits 3) (h1 : f1.length = 3) (h2 : f2.length = 3) :
    (assemble ([a, b, c, d] :: f1 :: f2 :: x.list :: rest)).slice 10 3 = x :=
  slice_assemble [[a, b, c, d], f1, f2] rest x (by simp [h1, h2]) (by decide)

@[simp] theorem slice_assemble_13 (x : Trits 14) (h1 : f1.length = 3) (h2 : f2.length = 3) (h3 : f3.length = 3) :
    (assemble ([a, b, c, d] :: f1 :: f2 :: f3 :: x.list :: rest)).slice 13 14 = x :=
  slice_assemble [[a, b, c, d], f1, f2, f3] rest x (by simp [h1, h2, h3]) (by decide)

@[simp] theorem slice_assemble_19 (x : Trits 8) (h1 : f1.length = 3) (h2 : f2.length = 3) (h3 : f3.length = 3)
    (h4 : f4.length = 3) (h5 : f5.length = 3) :
    (assemble ([a, b, c, d] :: f1 :: f2 :: f3 :: f4 :: f5 :: x.list :: rest)).slice 19 8 = x :=
  slice_assemble [[a, b, c, d], f1, f2, f3, f4, f5] rest x (by simp [h1, h2, h3, h4, h5]) (by decide)

/-! Immediates, offsets and the lane, in the ranges of `Instr.wf` -/

theorem field_assemble_imm17 {v : Int} (h1 : f1.length = 3) (h2 : f2.length = 3)
    (hv : inRange (-64570081) 64570081 v = true) :
    (assemble ([a, b, c, d] :: f1 :: f2 :: intTrits 17 v :: rest)).field 10 17 = v :=
  field_assemble [[a, b, c, d], f1, f2] rest (by simp [h1, h2]) (by decide) (by rwa [half3_17])

theorem field_assemble_offset20 {v : Int} (h1 : f1.length = 3) (hv : inRange (-1743392200) 1743392200 v = true) :
    (assemble ([a, b, c, d] :: f1 :: intTrits 20 v :: rest)).field 7 20 = v :=
  field_assemble [[a, b, c, d], f1] rest (by simp [h1]) (by decide) (by rwa [half3_20])

theorem field_assemble_offset23 {v : Int} (hv : inRange (-47071589413) 47071589413 v = true) :
    (assemble ([a, b, c, d] :: intTrits 23 v :: rest)).field 4 23 = v :=
  field_assemble [[a, b, c, d]] rest rfl (by decide) (by rwa [half3_23])

theorem field_assemble_offZ {v : Int} (h1 : f1.length = 3) (hv : inRange (-29524) 29524 v = true) :
    (assemble ([a, b, c, d] :: f1 :: intTrits 10 v :: rest)).field 7 10 = v :=
  field_assemble [[a, b, c, d], f1] rest (by simp [h1]) (by decide) (by rwa [half3_10])

theorem field_assemble_offN {v : Int} (h1 : f1.length = 3) (h2 : f2.length = 10)
    (hv : inRange (-29524) 29524 v = true) :
    (assemble ([a, b, c, d] :: f1 :: f2 :: intTrits 10 v :: rest)).field 17 10 = v :=
  field_assemble [[a, b, c, d], f1, f2] rest (by simp [h1, h2]) (by decide) (by rwa [half3_10])

theorem field_assemble_lane {v : Int} (h1 : f1.length = 3) (h2 : f2.length = 3) (h3 : f3.length = 3)
    (h4 : f4.length = 3) (hv : inRange (-13) 13 v = true) :
    (assemble ([a, b, c, d] :: f1 :: f2 :: f3 :: f4 :: intTrits 3 v :: rest)).field 16 3 = v :=
  field_assemble [[a, b, c, d], f1, f2, f3, f4] rest (by simp [h1, h2, h3, h4]) (by decide) (by rwa [half3_3])

end

/-! ### From the opcode to the row of the map (R120) -/

/-- The opcode determines the first four trits (R112). -/
theorem get_of_opcodeOf (a b c d : Trit) {w : Word}
    (h : opcodeOf w = a.val + 3 * b.val + 9 * c.val + 27 * d.val) :
    w.get 0 = a ∧ w.get 1 = b ∧ w.get 2 = c ∧ w.get 3 = d := by
  rw [opcodeOf_eq] at h
  have hbounds := fun t : Trit => t.val_bounds
  have ha := hbounds a; have hb := hbounds b; have hc := hbounds c; have hd := hbounds d
  have h0 := hbounds (w.get 0); have h1 := hbounds (w.get 1)
  have h2 := hbounds (w.get 2); have h3 := hbounds (w.get 3)
  refine ⟨?_, ?_, ?_, ?_⟩ <;> apply Trit.val_injective <;> omega

theorem decode_of_opcode_mul {w : Word} (h : opcodeOf w = -38) : decode w = decodeMul w := by
  simp [decode, get_of_opcodeOf .P .N .N .N h]

theorem decode_of_opcode_vadd {w : Word} (h : opcodeOf w = 15) : decode w = decodeVadd w := by
  simp [decode, get_of_opcodeOf .Z .N .N .P h]

theorem decode_of_opcode_vlog {w : Word} (h : opcodeOf w = 17) : decode w = decodeVlog w := by
  simp [decode, get_of_opcodeOf .N .Z .N .P h]

theorem decode_of_opcode_vred {w : Word} (h : opcodeOf w = 20) : decode w = decodeVred w := by
  simp [decode, get_of_opcodeOf .N .P .N .P h]

theorem decode_of_opcode_vperm {w : Word} (h : opcodeOf w = 21) : decode w = decodeVperm w := by
  simp [decode, get_of_opcodeOf .Z .P .N .P h]

theorem decode_of_opcode_vmove {w : Word} (h : opcodeOf w = 22) : decode w = decodeVmove w := by
  simp [decode, get_of_opcodeOf .P .P .N .P h]

/-! ### The words of the illegal and reserved rows (R124, R125, R126) -/

theorem decode_illegalMul {w : Word} (h : (Instr.illegalMul w).wf = true) : decode w = .illegalMul w := by
  obtain ⟨hop, hsel⟩ : opcodeOf w = -38 ∧ w.get 13 = .N := by simpa [Instr.wf] using h
  simp [decode_of_opcode_mul hop, decodeMul, hsel]

theorem decode_illegalVadd {w : Word} (h : (Instr.illegalVadd w).wf = true) : decode w = .illegalVadd w := by
  obtain ⟨hop, hsel⟩ : opcodeOf w = 15 ∧ w.get 13 = .P := by simpa [Instr.wf] using h
  simp [decode_of_opcode_vadd hop, decodeVadd, hsel]

/-- `sixSelectors` looks for funct[0..2] among the selectors that the opcode assigns. -/
theorem sixSelectors_selector (w : Word) : sixSelectors (w.get 13) (w.get 14) (w.get 15) =
    [(.Z, .Z, .Z), (.P, .Z, .Z), (.Z, .P, .Z), (.P, .P, .Z), (.Z, .Z, .P), (.P, .Z, .P)].contains w.selector := rfl

theorem sevenSelectors_selector (w : Word) : sevenSelectors (w.get 13) (w.get 14) (w.get 15) =
    (sixSelectors (w.get 13) (w.get 14) (w.get 15) || w.selector == (.Z, .P, .P)) := rfl

theorem decode_illegalVlog {w : Word} (h : (Instr.illegalVlog w).wf = true) : decode w = .illegalVlog w := by
  rw [Instr.wf, sixSelectors_selector, Bool.and_eq_true, beq_iff_eq] at h
  rw [decode_of_opcode_vlog h.1, decodeVlog]
  split <;> simp_all

theorem decode_illegalVred {w : Word} (h : (Instr.illegalVred w).wf = true) : decode w = .illegalVred w := by
  rw [Instr.wf, sevenSelectors_selector, sixSelectors_selector, Bool.and_eq_true, beq_iff_eq] at h
  rw [decode_of_opcode_vred h.1, decodeVred]
  split <;> simp_all

theorem decode_illegalVperm {w : Word} (h : (Instr.illegalVperm w).wf = true) : decode w = .illegalVperm w := by
  rw [Instr.wf, sixSelectors_selector, Bool.and_eq_true, beq_iff_eq] at h
  rw [decode_of_opcode_vperm h.1, decodeVperm]
  split <;> simp_all

theorem decode_illegalVmove {w : Word} (h : (Instr.illegalVmove w).wf = true) : decode w = .illegalVmove w := by
  rw [Instr.wf, sixSelectors_selector, Bool.and_eq_true, beq_iff_eq] at h
  rw [decode_of_opcode_vmove h.1, decodeVmove]
  split <;> simp_all

/-- The rows of the other opcodes contradict the opcode of `w`. -/
theorem decode_reservedOpcode {w : Word} (h : (Instr.reservedOpcode w).wf = true) : decode w = .reservedOpcode w := by
  rw [Instr.wf, opcodeOf_eq] at h
  unfold decode
  split <;> simp_all

theorem decode_customOpcode {w : Word} (h : (Instr.customOpcode w).wf = true) : decode w = .customOpcode w := by
  rw [Instr.wf, opcodeOf_eq] at h
  unfold decode
  split <;> simp_all [inRange]

/-! ### The round trip -/

/-- Settles O49: the fields of the word give the operands back, format by format, and a raw word its own row. -/
theorem decodeEncode : Obligations.DecodeEncode := by
  intro i h
  cases i with
  | illegalMul w => exact decode_illegalMul h
  | illegalVadd w => exact decode_illegalVadd h
  | illegalVlog w => exact decode_illegalVlog h
  | illegalVred w => exact decode_illegalVred h
  | illegalVperm w => exact decode_illegalVperm h
  | illegalVmove w => exact decode_illegalVmove h
  | reservedOpcode w => exact decode_reservedOpcode h
  | customOpcode w => exact decode_customOpcode h
  | ecall | hcall | dbgbrk | iret | nop | halt => decide
  | load | store | li | lui | addi | cmpi => simp [encode, encI, decode, field_assemble_imm17 _ _ h]
  | beq | bne | blt | bgt | ble | bge | jmpa => simp [encode, encJ, decode, field_assemble_offset20 _ h]
  | jmp | call => simp [encode, encU, decode, field_assemble_offset23 h]
  | brt3 rX offZ offN =>
    obtain ⟨hZ, hN⟩ := Bool.and_eq_true_iff.1 h
    simp [encode, decode, field_assemble_offZ _ hZ, field_assemble_offN _ _ hN]
  | bf => simp [encode, decode, field_assemble_offset20 _ h]
  | csrr | csrw | csrx => simp [encode, decode]
  | vins | vext => simp [encode, decode, decodeVmove, field_assemble_lane _ _ _ _ h]
  | add | adds | adc => simp [encode, encR, decode, decodeAdd]
  | sub | subs | sbc => simp [encode, encR, decode, decodeSub]
  | mul | mulh => simp [encode, encR, decode, decodeMul]
  | tsetn | tsetz | tsetp => simp [encode, encR, decode, decodeTset]
  | ficvt | fcvti | fcvtiz => simp [encode, encR, decode, decodeFcvt]
  | vadd | vsub => simp [encode, encR, decode, decodeVadd]
  | vand | vor | vimpl | vnot | vcons | vacons => simp [encode, encR, decode, decodeVlog]
  | vredSum | vredSign | vredCons | vredLst | vredMst | vredAnd | vredOr =>
    simp [encode, encR, decode, decodeVred]
  | vrotl | vrotr | vshl | vshr | vrev | vshuf => simp [encode, encR, decode, decodeVperm]
  | vmovGv | vmovVg | vmovVv | vbcast => simp [encode, encR, decode, decodeVmove]
  | _ => simp [encode, encR, decode]

/-- Settles O51: each word, written trit by trit, decodes by evaluation. -/
theorem workedEncodings : Obligations.WorkedEncodings :=
  ⟨by decide, by decide, by decide, by decide, by decide, by decide, by decide, by decide⟩

end Sys2Proof
end

section
/-! SUPPORT. Every word decodes to a well-formed instruction, and a word is its slices laid end to end
(RawWordsSurviveDecoding). -/

namespace Sys2Proof

/-! ### Decoded instructions are well-formed -/

theorem inRange_field (w : Word) (lo len : Nat) : inRange (-half3 len) (half3 len) (w.field lo len) = true := by
  simpa [inRange] using field_bounds w lo len

@[simp] theorem inRange_imm17 (w : Word) : inRange (-64570081) 64570081 (w.field 10 17) = true :=
  half3_17 ▸ inRange_field w 10 17

@[simp] theorem inRange_offset20 (w : Word) : inRange (-1743392200) 1743392200 (w.field 7 20) = true :=
  half3_20 ▸ inRange_field w 7 20

@[simp] theorem inRange_offset23 (w : Word) : inRange (-47071589413) 47071589413 (w.field 4 23) = true :=
  half3_23 ▸ inRange_field w 4 23

@[simp] theorem inRange_offset10 (w : Word) (lo : Nat) : inRange (-29524) 29524 (w.field lo 10) = true :=
  half3_10 ▸ inRange_field w lo 10

@[simp] theorem inRange_lane (w : Word) : inRange (-13) 13 (w.field 16 3) = true := half3_3 ▸ inRange_field w 16 3

theorem wf_decodeAdd (w : Word) : (decodeAdd w).wf = true := by unfold decodeAdd; split <;> rfl
theorem wf_decodeSub (w : Word) : (decodeSub w).wf = true := by unfold decodeSub; split <;> rfl
theorem wf_decodeEcall (w : Word) : (decodeEcall w).wf = true := by unfold decodeEcall; split <;> rfl
theorem wf_decodeTset (w : Word) : (decodeTset w).wf = true := by unfold decodeTset; split <;> rfl
theorem wf_decodeFcvt (w : Word) : (decodeFcvt w).wf = true := by unfold decodeFcvt; split <;> rfl

theorem wf_decodeMul {w : Word} (h : opcodeOf w = -38) : (decodeMul w).wf = true := by
  unfold decodeMul
  split <;> simp_all [Instr.wf]

theorem wf_decodeVadd {w : Word} (h : opcodeOf w = 15) : (decodeVadd w).wf = true := by
  unfold decodeVadd
  split <;> simp_all [Instr.wf]

theorem wf_decodeVlog {w : Word} (h : opcodeOf w = 17) : (decodeVlog w).wf = true := by
  unfold decodeVlog
  split
  case h_7 hZZZ hPZZ hZPZ hPPZ hZZP hPZP =>
    simpa [Instr.wf, h, sixSelectors_selector] using ⟨hZZZ, hPZZ, hZPZ, hPPZ, hZZP, hPZP⟩
  all_goals rfl

theorem wf_decodeVred {w : Word} (h : opcodeOf w = 20) : (decodeVred w).wf = true := by
  unfold decodeVred
  split
  case h_8 hZZZ hPZZ hZPZ hPPZ hZZP hPZP hZPP =>
    simpa [Instr.wf, h, sevenSelectors_selector, sixSelectors_selector] using
      ⟨⟨hZZZ, hPZZ, hZPZ, hPPZ, hZZP, hPZP⟩, hZPP⟩
  all_goals rfl

theorem wf_decodeVperm {w : Word} (h : opcodeOf w = 21) : (decodeVperm w).wf = true := by
  unfold decodeVperm
  split
  case h_7 hZZZ hPZZ hZPZ hPPZ hZZP hPZP =>
    simpa [Instr.wf, h, sixSelectors_selector] using ⟨hZZZ, hPZZ, hZPZ, hPPZ, hZZP, hPZP⟩
  all_goals rfl

theorem wf_decodeVmove {w : Word} (h : opcodeOf w = 22) : (decodeVmove w).wf = true := by
  unfold decodeVmove
  split
  case h_7 hZZZ hPZZ hZPZ hPPZ hZZP hPZP =>
    simpa [Instr.wf, h, sixSelectors_selector] using ⟨hZZZ, hPZZ, hZPZ, hPPZ, hZZP, hPZP⟩
  case h_5 | h_6 => exact inRange_lane w
  all_goals rfl

theorem wf_customOpcode {w : Word} (h1 : 25 ≤ opcodeOf w) (h2 : opcodeOf w ≤ 40) :
    (Instr.customOpcode w).wf = true := by
  simp [Instr.wf, inRange, h1, h2]

/-- Every word decodes to a well-formed instruction: the fields bound the immediates, and the opcode and the selector
put a raw word in its row (R130). -/
theorem wf_decode (w : Word) : (decode w).wf = true := by
  have hop := opcodeOf_eq w
  unfold decode
  split <;>
    simp_all [Instr.wf, ↓wf_decodeAdd, ↓wf_decodeSub, ↓wf_decodeMul, ↓wf_decodeEcall, ↓wf_decodeTset, ↓wf_decodeFcvt,
      ↓wf_decodeVadd, ↓wf_decodeVlog, ↓wf_decodeVred, ↓wf_decodeVperm, ↓wf_decodeVmove, ↓wf_customOpcode]

/-! ### A word from its slices -/

theorem Trits.list_slice {n : Nat} (w : Trits n) (lo len : Nat) :
    (w.slice lo len).list = (List.range len).map fun k => w.get (lo + k) :=
  List.map_congr_left fun _ hk => Trits.get_ofFn_lt _ (List.mem_range.1 hk)

theorem Trits.list_slice_append {n : Nat} (w : Trits n) {lo mid m k : Nat} (h : lo + m = mid) :
    (w.slice lo m).list ++ (w.slice mid k).list = (w.slice lo (m + k)).list := by
  subst h
  simp [Trits.list_slice, List.range_add, Nat.add_assoc]

/-- Fields that are the slices of a word assemble to the word. -/
theorem assemble_eq_of_flatten_eq {w : Word} {fields : List (List Trit)} (h : fields.flatten = (w.slice 0 27).list) :
    assemble fields = w := by
  refine Trits.ext_get fun i hi => ?_
  rw [get_assemble _ hi, h, Trits.getD_list _ hi, Trits.slice, Trits.get_ofFn_lt _ hi, Nat.zero_add]

theorem regTrits_regAt (w : Word) (lo : Nat) : regTrits (w.regAt lo) = (w.slice lo 3).list := by
  rw [Trits.list_slice]
  exact List.map_congr_left fun k hk => digit_regAt w lo (List.mem_range.1 hk)

theorem intTrits_csrAt (w : Word) : intTrits 3 w.csrAt.address = (w.slice 10 3).list := by
  rw [Trits.list_slice]
  exact List.map_congr_left fun k hk => digit_csrAt w (List.mem_range.1 hk)

theorem intTrits_field (w : Word) (lo len : Nat) : intTrits len (w.field lo len) = (w.slice lo len).list := by
  rw [Trits.list_slice]
  exact List.map_congr_left fun k hk => digit_field w lo len (List.mem_range.1 hk)

theorem list_slice_opcode {w : Word} {n : Int} (h : opcodeOf w = n) : (w.slice 0 4).list = intTrits 4 n := by
  rw [← h, opcodeOf, Trits.list_slice]
  exact List.map_congr_left fun k hk => by rw [digit_sumTrits _ _ (List.mem_range.1 hk), Nat.zero_add]

theorem list_slice_of_field {w : Word} {lo len : Nat} {n : Int} (h : w.field lo len = n) :
    (w.slice lo len).list = intTrits len n := by
  rw [← h, intTrits_field]

/-- funct[0..2] by its value (R121). -/
theorem selector_of_field {w : Word} {n : Int} (h : w.field 13 3 = n) :
    w.selector = (digit 0 n, digit 1 n, digit 2 n) := by
  simp [← h, digit_field, Trits.selector]

/-! ### The words whose instructions keep all their trits (R129) -/

theorem decode_of_opcode_csrr {w : Word} (h : opcodeOf w = -7) :
    decode w = .csrr (w.regAt 4) w.csrAt (w.slice 7 3) (w.slice 13 14) := by
  simp [decode, get_of_opcodeOf .N .P .N .Z h]

theorem encode_decode_csrr {w : Word} (h : opcodeOf w = -7) : encode (decode w) = w := by
  have hop : (w.slice 0 4).list = [.N, .P, .N, .Z] := list_slice_opcode h
  rw [decode_of_opcode_csrr h, encode, ← hop, regTrits_regAt, intTrits_csrAt]
  exact assemble_eq_of_flatten_eq (by simp [Trits.list_slice_append])

theorem encode_decode_csrw {w : Word} (h : opcodeOf w = -6) : encode (decode w) = w := by
  have hop : (w.slice 0 4).list = [.Z, .P, .N, .Z] := list_slice_opcode h
  rw [decode_of_opcode_csrw h, encode, ← hop, regTrits_regAt, intTrits_csrAt]
  exact assemble_eq_of_flatten_eq (by simp [Trits.list_slice_append])

theorem encode_decode_csrx {w : Word} (h : opcodeOf w = -5) : encode (decode w) = w := by
  have hop : (w.slice 0 4).list = [.P, .P, .N, .Z] := list_slice_opcode h
  rw [decode_of_opcode_csrx h, encode, ← hop, regTrits_regAt, regTrits_regAt, intTrits_csrAt]
  exact assemble_eq_of_flatten_eq (by simp [Trits.list_slice_append])

/-- The layout that VINS and VEXT share, `sel` being funct[0..2] (R405, R406). -/
theorem assemble_lane_fields {w : Word} {sel : List Trit} (h : opcodeOf w = 22) (hsel : (w.slice 13 3).list = sel) :
    assemble [[.P, .P, .N, .P], regTrits (w.regAt 4), regTrits (w.regAt 7), (w.slice 10 3).list, sel,
      intTrits 3 (w.field 16 3), (w.slice 19 8).list] = w := by
  have hop : (w.slice 0 4).list = [.P, .P, .N, .P] := list_slice_opcode h
  rw [← hop, ← hsel, regTrits_regAt, regTrits_regAt, intTrits_field]
  exact assemble_eq_of_flatten_eq (by simp [Trits.list_slice_append])

theorem encode_decode_vins {w : Word} (h : opcodeOf w = 22) (hf : w.field 13 3 = 9) : encode (decode w) = w := by
  have hsel : w.selector = (.Z, .Z, .P) := selector_of_field hf
  have htrits : (w.slice 13 3).list = [.Z, .Z, .P] := list_slice_of_field hf
  simp only [decode_of_opcode_vmove h, decodeVmove, hsel, encode]
  exact assemble_lane_fields h htrits

theorem encode_decode_vext {w : Word} (h : opcodeOf w = 22) (hf : w.field 13 3 = 10) : encode (decode w) = w := by
  have hsel : w.selector = (.P, .Z, .P) := selector_of_field hf
  have htrits : (w.slice 13 3).list = [.P, .Z, .P] := list_slice_of_field hf
  simp only [decode_of_opcode_vmove h, decodeVmove, hsel, encode]
  exact assemble_lane_fields h htrits

/-! ### The obligation -/

/-- Settles O50: every row of the map is well-formed, and the words of CSRR, CSRW, CSRX, VINS and VEXT are the slices
that their instructions keep. -/
theorem rawWordsSurviveDecoding : Obligations.RawWordsSurviveDecoding := by
  refine fun w => ⟨wf_decode w, ?_⟩
  rintro (hop | hop | hop | ⟨hop, hf | hf⟩)
  · exact encode_decode_csrr hop
  · exact encode_decode_csrw hop
  · exact encode_decode_csrx hop
  · exact encode_decode_vins hop hf
  · exact encode_decode_vext hop hf

end Sys2Proof
end

section
/-! SUPPORT. The words that take EXC_ILLEGAL (IllegalWordsTrap). -/

namespace Sys2Proof

/-! ### The assigned selectors by the value of funct[0..2] (R121) -/

theorem field_13_3 (w : Word) :
    w.field 13 3 = (w.get 13).val + 3 * (w.get 14).val + 9 * (w.get 15).val := by
  simp only [Trits.field, sumTrits, show pow3 1 = 3 from rfl, show pow3 2 = 9 from rfl, pow3_zero, Nat.add_zero,
    Nat.reduceAdd]
  ring

theorem field_of_sixSelectors {w : Word} (h : sixSelectors (w.get 13) (w.get 14) (w.get 15) = true) :
    w.field 13 3 = 0 ∨ w.field 13 3 = 1 ∨ w.field 13 3 = 3 ∨ w.field 13 3 = 4 ∨ w.field 13 3 = 9 ∨
      w.field 13 3 = 10 := by
  rw [field_13_3]
  simp only [sixSelectors, List.contains_cons, List.contains_nil, Bool.or_eq_true, beq_iff_eq, Prod.mk.injEq] at h
  rcases h with h | h | h | h | h | h | h <;> simp_all

theorem field_of_sevenSelectors {w : Word} (h : sevenSelectors (w.get 13) (w.get 14) (w.get 15) = true) :
    w.field 13 3 = 0 ∨ w.field 13 3 = 1 ∨ w.field 13 3 = 3 ∨ w.field 13 3 = 4 ∨ w.field 13 3 = 9 ∨
      w.field 13 3 = 10 ∨ w.field 13 3 = 12 := by
  rcases Bool.or_eq_true_iff.1 h with hsix | hZPP
  · have := field_of_sixSelectors hsix
    omega
  · rw [beq_iff_eq, Prod.mk.injEq, Prod.mk.injEq] at hZPP
    simp [field_13_3, hZPP]

end Sys2Proof

namespace Sys2Proof.Machine

/-! ### The entries -/

theorem exec_illegalMul (w : Word) (s : State) : exec (.illegalMul w) s = .next (s.trap (-10) w s.pc) := rfl
theorem exec_illegalVadd (w : Word) (s : State) : exec (.illegalVadd w) s = .next (s.trap (-10) w s.pc) := rfl
theorem exec_illegalVlog (w : Word) (s : State) : exec (.illegalVlog w) s = .next (s.trap (-10) w s.pc) := rfl
theorem exec_illegalVred (w : Word) (s : State) : exec (.illegalVred w) s = .next (s.trap (-10) w s.pc) := rfl
theorem exec_illegalVperm (w : Word) (s : State) : exec (.illegalVperm w) s = .next (s.trap (-10) w s.pc) := rfl
theorem exec_illegalVmove (w : Word) (s : State) : exec (.illegalVmove w) s = .next (s.trap (-10) w s.pc) := rfl
theorem exec_reservedOpcode (w : Word) (s : State) : exec (.reservedOpcode w) s = .next (s.trap (-10) w s.pc) := rfl
theorem exec_customOpcode (w : Word) (s : State) : exec (.customOpcode w) s = .next (s.trap (-10) w s.pc) := rfl

theorem exec_vins_negative (vd : VReg) (rs1 : Reg) {lane : Int} (lo : Trits 3) (hi : Trits 8) (s : State)
    (h : lane < 0) :
    exec (.vins vd rs1 lane lo hi) s = .next (s.trap (-10) (encode (.vins vd rs1 lane lo hi)) s.pc) :=
  if_pos h

theorem exec_vext_negative (rd : Reg) (vs1 : VReg) {lane : Int} (lo : Trits 3) (hi : Trits 8) (s : State)
    (h : lane < 0) :
    exec (.vext rd vs1 lane lo hi) s = .next (s.trap (-10) (encode (.vext rd vs1 lane lo hi)) s.pc) :=
  if_pos h

/-- The words of the reserved and the custom opcodes trap (R125, R126). -/
theorem exec_decode_of_unassigned_opcode {w : Word} (s : State)
    (h : opcodeOf w = -20 ∨ opcodeOf w = -19 ∨ opcodeOf w = 14 ∨ opcodeOf w = 23 ∨ opcodeOf w = 24 ∨
      (25 ≤ opcodeOf w ∧ opcodeOf w ≤ 40)) :
    exec (decode w) s = .next (s.trap (-10) w s.pc) := by
  by_cases hcustom : 25 ≤ opcodeOf w ∧ opcodeOf w ≤ 40
  · rw [decode_customOpcode (wf_customOpcode hcustom.1 hcustom.2), exec_customOpcode]
  · have hwf : (Instr.reservedOpcode w).wf = true := by
      simp only [Instr.wf, List.contains_cons, Bool.or_eq_true, beq_iff_eq]
      omega
    rw [decode_reservedOpcode hwf, exec_reservedOpcode]

/-- The words of an unassigned selector of VLOG, VPERM or VMOVE trap (R124). -/
theorem exec_decode_of_not_sixSelectors {w : Word} (s : State)
    (hop : opcodeOf w = 17 ∨ opcodeOf w = 21 ∨ opcodeOf w = 22)
    (hsel : sixSelectors (w.get 13) (w.get 14) (w.get 15) = false) :
    exec (decode w) s = .next (s.trap (-10) w s.pc) := by
  rcases hop with hop | hop | hop
  · rw [decode_illegalVlog (by simp [Instr.wf, hop, hsel]), exec_illegalVlog]
  · rw [decode_illegalVperm (by simp [Instr.wf, hop, hsel]), exec_illegalVperm]
  · rw [decode_illegalVmove (by simp [Instr.wf, hop, hsel]), exec_illegalVmove]

/-- Settles O33: each such word is the raw word of its row, each row raises EXC_ILLEGAL with it, and so does a negative
lane with the word of its instruction. -/
theorem illegalWordsTrap : Obligations.IllegalWordsTrap := by
  refine ⟨fun w s => exec_decode_of_unassigned_opcode s, fun w s => ?_, fun w s => ?_,
    fun rd rs1 vd vs1 lane lo hi s hlane => ⟨exec_vins_negative vd rs1 lo hi s hlane,
      exec_vext_negative rd vs1 lo hi s hlane⟩⟩
  · rintro (⟨hop, hsel⟩ | ⟨hop, hsel⟩ | ⟨hop, hsel⟩ | ⟨hop, hsel⟩)
    · rw [decode_illegalMul (by simp [Instr.wf, hop, hsel]), exec_illegalMul]
    · rw [decode_illegalVadd (by simp [Instr.wf, hop, hsel]), exec_illegalVadd]
    · exact exec_decode_of_not_sixSelectors s hop (Bool.eq_false_iff.2 fun h => hsel (field_of_sixSelectors h))
    · have hseven := Bool.eq_false_iff.2 fun h => hsel (field_of_sevenSelectors h)
      rw [decode_illegalVred (by simp [Instr.wf, hop, hseven]), exec_illegalVred]
  · exact ⟨exec_illegalMul w s, exec_illegalVadd w s, exec_illegalVlog w s, exec_illegalVred w s,
      exec_illegalVperm w s, exec_illegalVmove w s, exec_reservedOpcode w s, exec_customOpcode w s⟩

end Sys2Proof.Machine
end

section
/-! SUPPORT. ALU arithmetic: the trit adder and its chain (AdderTable, AddersAgreeWithIntegers), sums and negation
(AddSubNegate), the two words of a product (MultiplyLowAndHigh), division to the nearest (DivideToNearest,
DivideByZeroTraps). -/

namespace Sys2Proof

/-- A residue in range and its multiple of `3 ^ w` are the wrap and the carry: R13 read as a characterisation. -/
theorem wrap_carry_unique {w : Nat} {n r q : Int} (h : n = r + q * pow3 w) (h1 : -half3 w ≤ r) (h2 : r ≤ half3 w) :
    wrap w n = r ∧ carry w n = q := by
  have hwrap : wrap w n = r := by
    rw [← wrap_of_bounds h1 h2, h, wrap, wrap, add_right_comm, Int.add_mul_emod_self_right]
  refine ⟨hwrap, mul_right_cancel₀ (pow3_pos w).ne' ?_⟩
  linarith [wrap_add_carry w n]

theorem half3_1 : half3 1 = 1 := by decide

end Sys2Proof

namespace Sys2Proof.Machine

/-! ### The trit adder (R142) -/

theorem tritAdd_comm (a b : Trit) : tritAdd a b = tritAdd b a := by
  cases a <;> cases b <;> rfl

/-- The sum trit and the carry of one position are worth the three trits added. -/
theorem fullAdd_spec (a b c : Trit) :
    a.val + b.val + c.val = (fullAdd a b c).1.val + 3 * (fullAdd a b c).2.val := by
  cases a <;> cases b <;> cases c <;> rfl

/-- Settles O1: the table by evaluation, the three-input adder because its output is the trit and the carry of the
sum. -/
theorem adderTable : Obligations.AdderTable := by
  refine ⟨by decide, tritAdd_comm, fun a b c => ?_⟩
  have hsum : a.val + b.val + c.val = (fullAdd a b c).1.val + (fullAdd a b c).2.val * pow3 1 :=
    (fullAdd_spec a b c).trans (by rw [mul_comm]; rfl)
  have hb := (fullAdd a b c).1.val_bounds
  rw [← half3_1] at hb
  obtain ⟨hwrap, hcarry⟩ := wrap_carry_unique hsum hb.1 hb.2
  exact ⟨hwrap.symm, hcarry.symm⟩

/-! ### The chained adder (R143) -/

/-- After `n` positions the sum trits and the carry at weight `3 ^ n` are worth the two numbers and the carry-in. -/
theorem rippleCarry_spec (a b : Nat → Trit) (c : Trit) (n : Nat) :
    sumTrits a n + sumTrits b n + c.val =
      sumTrits (fun i => (fullAdd (a i) (b i) (rippleCarry a b c i)).1) n + (rippleCarry a b c n).val * pow3 n := by
  induction n with
  | zero => simp [sumTrits, rippleCarry]
  | succ n ih =>
    have hpos := fullAdd_spec (a n) (b n) (rippleCarry a b c n)
    simp only [sumTrits, rippleCarry, pow3_succ]
    linear_combination ih + pow3 n * hpos

theorem rippleSum_add_rippleCarryOut (a b : Word) (c : Trit) :
    a.val + b.val + c.val = (rippleSum a b c).val + (rippleCarryOut a b c).val * pow3 27 := by
  rw [rippleSum, val_ofFn]
  exact rippleCarry_spec a.get b.get c 27

theorem wrap_carry_ripple (a b : Word) (c : Trit) :
    wrap 27 (a.val + b.val + c.val) = (rippleSum a b c).val ∧
      carry 27 (a.val + b.val + c.val) = (rippleCarryOut a b c).val :=
  wrap_carry_unique (rippleSum_add_rippleCarryOut a b c) (val_bounds _).1 (val_bounds _).2

theorem word_eq_rippleSum (a b : Word) (c : Trit) : word (a.val + b.val + c.val) = rippleSum a b c :=
  val_injective (by rw [val_word, (wrap_carry_ripple a b c).1])

theorem carryTrit_eq_rippleCarryOut (a b : Word) (c : Trit) :
    carryTrit (a.val + b.val + c.val) = rippleCarryOut a b c := by
  rw [carryTrit, (wrap_carry_ripple a b c).2, sign_of_val]

/-! ### What the instructions write -/

section
variable (rd rs1 rs2 : Reg) (s : State)

theorem exec_add : exec (.add rd rs1 rs2) s =
    .next (s.aluWrite rd (word ((s.reg rs1).val + (s.reg rs2).val))
      (carryTrit ((s.reg rs1).val + (s.reg rs2).val))) := rfl

theorem exec_adc : exec (.adc rd rs1 rs2) s =
    .next (s.aluWrite rd (word ((s.reg rs1).val + (s.reg rs2).val + s.flagCarry.val))
      (carryTrit ((s.reg rs1).val + (s.reg rs2).val + s.flagCarry.val))) := rfl

theorem exec_sub : exec (.sub rd rs1 rs2) s =
    .next (s.aluWrite rd (word ((s.reg rs1).val - (s.reg rs2).val))
      (carryTrit ((s.reg rs1).val - (s.reg rs2).val))) := rfl

theorem exec_sbc : exec (.sbc rd rs1 rs2) s =
    .next (s.aluWrite rd (word ((s.reg rs1).val - (s.reg rs2).val - s.flagCarry.val))
      (carryTrit ((s.reg rs1).val - (s.reg rs2).val - s.flagCarry.val))) := rfl

theorem exec_adds : exec (.adds rd rs1 rs2) s =
    .next (s.aluWrite rd (word (saturate ((s.reg rs1).val + (s.reg rs2).val))) .Z) := rfl

theorem exec_subs : exec (.subs rd rs1 rs2) s =
    .next (s.aluWrite rd (word (saturate ((s.reg rs1).val - (s.reg rs2).val))) .Z) := rfl

theorem exec_neg : exec (.neg rd rs1) s = .next (s.aluWrite rd (mapTrits tritNeg (s.reg rs1)) .Z) := rfl

theorem exec_mul : exec (.mul rd rs1 rs2) s =
    .next (s.aluWrite rd (word ((s.reg rs1).val * (s.reg rs2).val)) .Z) := rfl

theorem exec_mulh : exec (.mulh rd rs1 rs2) s =
    .next (s.aluWrite rd (word (carry 27 ((s.reg rs1).val * (s.reg rs2).val))) .Z) := rfl

theorem exec_div : exec (.div rd rs1 rs2) s =
    if (s.reg rs2).val = 0 then .next (s.trap (-13) zeroWord s.pc)
    else .next (s.aluWrite rd (word (divNearest (s.reg rs1).val (s.reg rs2).val)) .Z) :=
  apply_ite (finish s) _ _ _

theorem exec_mod : exec (.mod rd rs1 rs2) s =
    if (s.reg rs2).val = 0 then .next (s.trap (-13) zeroWord s.pc)
    else .next (s.aluWrite rd (word (modNearest (s.reg rs1).val (s.reg rs2).val)) .Z) :=
  apply_ite (finish s) _ _ _

theorem exec_add_eq_ripple : exec (.add rd rs1 rs2) s =
    .next (s.aluWrite rd (rippleSum (s.reg rs1) (s.reg rs2) .Z) (rippleCarryOut (s.reg rs1) (s.reg rs2) .Z)) := by
  rw [exec_add, ← word_eq_rippleSum, ← carryTrit_eq_rippleCarryOut, Trit.val_Z, add_zero]

theorem exec_adc_eq_ripple : exec (.adc rd rs1 rs2) s =
    .next (s.aluWrite rd (rippleSum (s.reg rs1) (s.reg rs2) s.flagCarry)
      (rippleCarryOut (s.reg rs1) (s.reg rs2) s.flagCarry)) := by
  rw [exec_adc, ← word_eq_rippleSum, ← carryTrit_eq_rippleCarryOut]

theorem exec_sub_eq_ripple : exec (.sub rd rs1 rs2) s =
    .next (s.aluWrite rd (rippleSum (s.reg rs1) (mapTrits tritNeg (s.reg rs2)) .Z)
      (rippleCarryOut (s.reg rs1) (mapTrits tritNeg (s.reg rs2)) .Z)) := by
  rw [exec_sub, ← word_eq_rippleSum, ← carryTrit_eq_rippleCarryOut, Trit.val_Z, add_zero, val_mapTrits_tritNeg,
    sub_eq_add_neg]

end

/-- An instruction that ends in `aluWrite` leaves the word in `rd` and the trit in FLAGS.carry. -/
theorem exists_aluWrite {x : Result} {s : State} {rd : Reg} {v : Word} {c : Trit} (h : x = .next (s.aluWrite rd v c)) :
    ∃ t, x = .next t ∧ (t.reg rd = if rd = 0 then zeroWord else v) ∧ t.flagCarry = c :=
  have ⟨hreg, _, hcarry, _⟩ := s.aluWrite_spec rd v c
  ⟨_, h, hreg, hcarry⟩

/-- Settles O2: the chain is worth the integer sum, so its trits and carry are the word and the carry trit that the
three instructions write. -/
theorem addersAgreeWithIntegers : Obligations.AddersAgreeWithIntegers := by
  refine ⟨fun a b c => ?_, fun rd rs1 rs2 s => ?_⟩
  · obtain ⟨hwrap, hcarry⟩ := wrap_carry_ripple a b c
    exact ⟨hwrap.symm, hcarry.symm, (rippleSum_add_rippleCarryOut a b c).trans (by rw [mul_comm])⟩
  · exact ⟨exists_aluWrite (exec_add_eq_ripple rd rs1 rs2 s), exists_aluWrite (exec_adc_eq_ripple rd rs1 rs2 s),
      exists_aluWrite (exec_sub_eq_ripple rd rs1 rs2 s)⟩

/-! ### Sums, differences and negation -/

theorem saturate_bounds (n : Int) : -H ≤ saturate n ∧ saturate n ≤ H := by
  unfold saturate H
  omega

theorem val_word_saturate (n : Int) : (word (saturate n)).val = max (-3812798742493) (min 3812798742493 n) :=
  val_word_of_bounds (saturate_bounds n).1 (saturate_bounds n).2

/-- Settles O3: no sum or difference with a carry leaves the range of a one-trit carry, the clamped sums and the
negation lie in the range of a word. -/
theorem addSubNegate : Obligations.AddSubNegate := by
  intro rd rs1 rs2 s
  have h1 := word_val_bounds (s.reg rs1)
  have h2 := word_val_bounds (s.reg rs2)
  have hc := s.flagCarry.val_bounds
  unfold H at h1 h2
  refine ⟨⟨_, exec_add .., ?add⟩, ⟨_, exec_adc .., ?adc⟩, ⟨_, exec_sub .., ?sub⟩, ⟨_, exec_sbc .., ?sbc⟩,
    ⟨_, exec_adds .., ?adds⟩, ⟨_, exec_subs .., ?subs⟩, ⟨_, exec_neg .., ?neg⟩⟩
  case add | adc | sub | sbc =>
    exact s.wroteAlu_aluWrite rd (val_word _) (val_carryTrit (by omega) (by omega))
  case adds | subs => exact s.wroteAlu_aluWrite rd (val_word_saturate _) rfl
  case neg => exact s.wroteAlu_aluWrite rd (val_mapTrits_tritNeg _) rfl

/-! ### The two words of a product -/

theorem abs_word_val_le (x : Word) : |x.val| ≤ H := abs_le.2 (word_val_bounds x)

/-- The high word of a product of two words is a word: the product is at most `H ^ 2` (R157). -/
theorem carry_mul_bounds (x y : Word) : -H ≤ carry 27 (x.val * y.val) ∧ carry 27 (x.val * y.val) ≤ H := by
  have hprod : |x.val * y.val| ≤ H * H := by
    rw [abs_mul]
    exact mul_le_mul (abs_word_val_le x) (abs_word_val_le y) (abs_nonneg _) (by decide)
  have hsplit := carry_spec (x.val * y.val)
  have hlow := wrap27_bounds (x.val * y.val)
  rw [abs_le] at hprod
  unfold H at *
  omega

/-- Settles O4: the wrap and the carry of the product, both in the range of a word. -/
theorem multiplyLowAndHigh : Obligations.MultiplyLowAndHigh := by
  intro rd rs1 rs2 s
  obtain ⟨hlo1, hlo2⟩ := wrap27_bounds ((s.reg rs1).val * (s.reg rs2).val)
  obtain ⟨hhi1, hhi2⟩ := carry_mul_bounds (s.reg rs1) (s.reg rs2)
  exact ⟨_, _, hlo1, hlo2, hhi1, hhi2, carry_spec _, ⟨_, exec_mul .., s.wroteAlu_aluWrite rd (val_word _) rfl⟩,
    ⟨_, exec_mulh .., s.wroteAlu_aluWrite rd (val_word_of_bounds hhi1 hhi2) rfl⟩⟩

/-! ### Division to the nearest integer (R146) -/

/-- The truncated remainder has the sign of the dividend. -/
theorem tmod_eq_sign_mul_abs (a b : Int) : a.tmod b = a.sign * |a.tmod b| := by
  by_cases hdvd : b ∣ a
  · simp [Int.tmod_eq_zero_of_dvd hdvd]
  · have hsign := Int.sign_tmod a b
    rw [if_neg hdvd] at hsign
    rw [← hsign, Int.sign_mul_abs]

theorem abs_tmod_lt (a : Int) {b : Int} (hb : b ≠ 0) : |a.tmod b| < |b| := by
  rw [Int.abs_eq_natAbs, Int.abs_eq_natAbs, Int.natAbs_tmod]
  exact_mod_cast Nat.mod_lt _ (Int.natAbs_pos.2 hb)

theorem abs_tdiv_mul_le (a b : Int) : |a.tdiv b * b| ≤ |a| := by
  rw [Int.abs_eq_natAbs, Int.abs_eq_natAbs, Int.natAbs_mul, Int.natAbs_tdiv]
  exact_mod_cast Nat.div_mul_le_self _ _

theorem divNearest_mul_add_modNearest (a b : Int) : a = divNearest a b * b + modNearest a b := by
  unfold modNearest
  ring

/-- Rounding the truncated quotient away from zero takes `|b|` off the magnitude of the remainder. -/
theorem modNearest_eq (a b : Int) : modNearest a b =
    a.sign * (if |b| < 2 * |a.tmod b| then |a.tmod b| - |b| else |a.tmod b|) := by
  have hdiv := Int.tdiv_mul_add_tmod a b
  have hmod := tmod_eq_sign_mul_abs a b
  unfold modNearest divNearest
  split
  · rw [val_sign, val_sign]
    linear_combination -hdiv + hmod - a.sign * Int.sign_mul_self_eq_abs b
  · linear_combination -hdiv + hmod

theorem abs_modNearest (a : Int) {b : Int} (hb : b ≠ 0) :
    |modNearest a b| = if |b| < 2 * |a.tmod b| then |b| - |a.tmod b| else |a.tmod b| := by
  rcases eq_or_ne a 0 with rfl | ha
  · simp [modNearest_eq, (abs_nonneg b).not_gt]
  · rw [modNearest_eq, abs_mul, Int.abs_sign_of_ne_zero ha, one_mul]
    split
    · rw [abs_sub_comm, abs_of_pos (sub_pos.2 (abs_tmod_lt a hb))]
    · exact abs_abs _

theorem two_mul_abs_modNearest_le (a : Int) {b : Int} (hb : b ≠ 0) : 2 * |modNearest a b| ≤ |b| := by
  rw [abs_modNearest a hb]
  split <;> omega

/-- At a tie the quotient is the truncated one: it stays on the side of zero. -/
theorem divNearest_eq_tdiv_of_tie {a b : Int} (hb : b ≠ 0) (htie : 2 * |modNearest a b| = |b|) :
    divNearest a b = a.tdiv b := by
  have hround : ¬ |b| < 2 * |a.tmod b| := fun h => by
    rw [abs_modNearest a hb, if_pos h] at htie
    omega
  rw [divNearest, if_neg hround]

/-- A quotient one above `|a|` in magnitude would leave a remainder of more than half of `|b|`. -/
theorem abs_divNearest_le (a : Int) {b : Int} (hb : b ≠ 0) : |divNearest a b| ≤ |a| := by
  have hrem := two_mul_abs_modNearest_le a hb
  have hprod : |divNearest a b| * |b| ≤ |a| + |modNearest a b| :=
    calc |divNearest a b| * |b| = |a - modNearest a b| := by
          rw [← abs_mul, eq_sub_of_add_eq (divNearest_mul_add_modNearest a b).symm]
      _ ≤ |a| + |modNearest a b| := abs_sub _ _
  have hb1 : 1 ≤ |b| := Int.one_le_abs hb
  by_contra hlt
  have hbig : (|a| + 1) * |b| ≤ |divNearest a b| * |b| :=
    mul_le_mul_of_nonneg_right (Int.add_one_le_of_lt (not_le.1 hlt)) (abs_nonneg b)
  nlinarith [abs_nonneg a]

theorem val_word_divNearest (x y : Word) (hy : y.val ≠ 0) :
    (word (divNearest x.val y.val)).val = divNearest x.val y.val :=
  have h := abs_le.1 ((abs_divNearest_le x.val hy).trans (abs_word_val_le x))
  val_word_of_bounds h.1 h.2

theorem val_word_modNearest (x y : Word) (hy : y.val ≠ 0) :
    (word (modNearest x.val y.val)).val = modNearest x.val y.val := by
  have hrem := two_mul_abs_modNearest_le x.val hy
  have hyH := abs_word_val_le y
  have h := abs_le.1 (show |modNearest x.val y.val| ≤ H by linarith [abs_nonneg (modNearest x.val y.val)])
  exact val_word_of_bounds h.1 h.2

/-- Settles O5: `divNearest` and `modNearest` divide to the nearest with ties toward zero, and both fit a word. -/
theorem divideToNearest : Obligations.DivideToNearest := by
  intro rd rs1 rs2 s hb
  refine ⟨_, _, divNearest_mul_add_modNearest _ _, two_mul_abs_modNearest_le _ hb, fun htie => ?_,
    ⟨_, (exec_div ..).trans (if_neg hb), s.wroteAlu_aluWrite rd (val_word_divNearest _ _ hb) rfl⟩,
    ⟨_, (exec_mod ..).trans (if_neg hb), s.wroteAlu_aluWrite rd (val_word_modNearest _ _ hb) rfl⟩⟩
  rw [divNearest_eq_tdiv_of_tie hb htie]
  exact abs_tdiv_mul_le _ _

/-- Settles O6: the branch of a zero divisor. -/
theorem divideByZeroTraps : Obligations.DivideByZeroTraps := fun rd rs1 rs2 s hb =>
  ⟨(exec_div rd rs1 rs2 s).trans (if_pos hb), (exec_mod rd rs1 rs2 s).trans (if_pos hb)⟩

end Sys2Proof.Machine
end

section
/-! SUPPORT. ALU logic and the trit-wise instructions: shifts as integers (ShiftResult), the trit-by-trit compare
(TritCompareOrders), the logic in force and its tables (LogicResult, LogicModeSelection, LogicTables,
ImplicationTables). -/

namespace Sys2Proof

/-! ### Digits of a quotient and of a multiple of a power of three -/

/-- `k` steps of the division of R12 and then `i` more. -/
theorem quot3_add (k i : Nat) (n : Int) : quot3 (k + i) n = quot3 i (quot3 k n) := by
  induction i with
  | zero => simp
  | succ i ih => rw [← Nat.add_assoc, quot3_succ, ih, ← quot3_succ]

theorem digit_quot3 (k i : Nat) (n : Int) : digit i (quot3 k n) = digit (k + i) n := by
  rw [digit, digit, quot3_add]

theorem quot3_mul_pow3 (k : Nat) (n : Int) : quot3 k (n * pow3 k) = n := by
  rw [← carry_eq_quot3]
  exact (wrap_carry_unique (zero_add _).symm (neg_nonpos.2 (half3_nonneg k)) (half3_nonneg k)).2

theorem digit_add_mul_pow3 (k i : Nat) (n : Int) : digit (k + i) (n * pow3 k) = digit i n := by
  rw [← digit_quot3, quot3_mul_pow3]

theorem digit_mul_pow3_of_lt {i k : Nat} (h : i < k) (n : Int) : digit i (n * pow3 k) = .Z := by
  obtain ⟨j, rfl⟩ := Nat.exists_eq_add_of_lt h
  have hmul : n * pow3 (i + j + 1) = 3 * (n * pow3 j) * pow3 i := by rw [pow3_succ, pow3_add]; ring
  rw [digit, hmul, quot3_mul_pow3]
  simp [lst]

/-- The digits of the value of a word are its trits, and Z above the word. -/
theorem digit_val {w : Nat} (x : Trits w) (i : Nat) : digit i x.val = x.get i := by
  rcases lt_or_ge i w with hi | hi
  · exact digit_sumTrits x.get w hi
  · obtain ⟨j, rfl⟩ := Nat.exists_eq_add_of_le hi
    have hquot : quot3 w x.val = 0 := by
      rw [← carry_eq_quot3]
      exact (wrap_carry_unique (by ring) (val_bounds x).1 (val_bounds x).2).2
    have hzero : digit j 0 = .Z := by simpa using digit_mul_pow3_of_lt j.lt_succ_self 0
    rw [Trits.get_of_le x hi, ← digit_quot3, hquot, hzero]

theorem abs_quot3_le (k : Nat) (n : Int) : |quot3 k n| ≤ |n| := by
  induction k with
  | zero => simp
  | succ k ih =>
    obtain ⟨hlo, hhi⟩ := abs_le.1 ih
    rw [quot3_succ, abs_le]
    omega

/-! ### The sign of a difference is that of its leading trit -/

theorem sign_add_mul_pow3 {r d : Int} {n : Nat} (hr : |r| < pow3 n) :
    sign (r + d * pow3 n) = if d = 0 then sign r else sign d := by
  obtain ⟨hlo, hhi⟩ := abs_lt.1 hr
  rcases lt_trichotomy d 0 with hd | rfl | hd
  · have : r + d * pow3 n < 0 := by nlinarith
    simp [sign, hd, hd.ne, this]
  · simp
  · have : 0 < r + d * pow3 n := by nlinarith
    simp [sign, hd.ne', hd.not_gt, this.ne', this.not_gt]

theorem abs_sumTrits_lt (f : Nat → Trit) (n : Nat) : |sumTrits f n| < pow3 n := by
  have hb := sumTrits_bounds f n
  have h2 := two_mul_half3 n
  rw [abs_lt]
  omega

theorem abs_sumTrits_sub_lt (f g : Nat → Trit) (n : Nat) : |sumTrits f n - sumTrits g n| < pow3 n := by
  have hf := sumTrits_bounds f n
  have hg := sumTrits_bounds g n
  have h2 := two_mul_half3 n
  rw [abs_lt]
  omega

end Sys2Proof

namespace Sys2Proof.Machine

/-! ### What the instructions write -/

section
variable (rd rs1 rs2 : Reg) (s : State)

theorem exec_tand : exec (.tand rd rs1 rs2) s =
    .next (s.aluWrite rd (zipTrits (tand s.logicMode) (s.reg rs1) (s.reg rs2)) .Z) := rfl

theorem exec_tor : exec (.tor rd rs1 rs2) s =
    .next (s.aluWrite rd (zipTrits (tor s.logicMode) (s.reg rs1) (s.reg rs2)) .Z) := rfl

theorem exec_tnot : exec (.tnot rd rs1) s =
    .next (s.aluWrite rd (mapTrits (tnot s.logicMode) (s.reg rs1)) .Z) := rfl

theorem exec_timpl : exec (.timpl rd rs1 rs2) s =
    .next (s.aluWrite rd (zipTrits (timpl s.logicMode) (s.reg rs1) (s.reg rs2)) .Z) := rfl

theorem exec_cons : exec (.cons rd rs1 rs2) s =
    .next (s.aluWrite rd (zipTrits tcons (s.reg rs1) (s.reg rs2)) .Z) := rfl

theorem exec_acons : exec (.acons rd rs1 rs2) s =
    .next (s.aluWrite rd (zipTrits tacons (s.reg rs1) (s.reg rs2)) .Z) := rfl

theorem exec_tshift : exec (.tshift rd rs1 rs2) s =
    .next (s.aluWrite rd (shiftTrits (s.reg rs1) (s.reg rs2).val) .Z) := rfl

theorem exec_tcmp : exec (.tcmp rd rs1 rs2) s =
    .next (s.aluWrite rd (zipTrits tritCompare (s.reg rs1) (s.reg rs2)) .Z) := rfl

theorem wroteAluTrits_zipTrits (f : Trit → Trit → Trit) (x y : Word) :
    WroteAluTrits s (s.aluWrite rd (zipTrits f x y) .Z) rd (fun i => f (x.get i) (y.get i)) :=
  s.wroteAluTrits_aluWrite rd fun _ => get_zipTrits f x y

theorem wroteAluTrits_mapTrits (f : Trit → Trit) (x : Word) :
    WroteAluTrits s (s.aluWrite rd (mapTrits f x) .Z) rd (fun i => f (x.get i)) :=
  s.wroteAluTrits_aluWrite rd fun _ => get_mapTrits f x

end

/-- Settles O10: each instruction ends in `aluWrite` of the trit-wise word. -/
theorem logicResult : Obligations.LogicResult := fun rd rs1 rs2 s =>
  ⟨⟨_, exec_tand .., wroteAluTrits_zipTrits ..⟩, ⟨_, exec_tor .., wroteAluTrits_zipTrits ..⟩,
    ⟨_, exec_tnot rd rs1 s, wroteAluTrits_mapTrits ..⟩, ⟨_, exec_timpl .., wroteAluTrits_zipTrits ..⟩,
    ⟨_, exec_cons .., wroteAluTrits_zipTrits ..⟩, ⟨_, exec_acons rd rs1 rs2 s, wroteAluTrits_zipTrits ..⟩⟩

/-! ### Shifts as integers (R188) -/

/-- A left shift moves every digit `k` positions up, which multiplies by `3 ^ k`. -/
theorem shiftTrits_natCast (x : Word) (k : Nat) : shiftTrits x k = word (x.val * pow3 k) := by
  refine Trits.ext_get fun i hi => ?_
  rw [get_shiftTrits x k hi, word, get_enc _ hi]
  rcases lt_or_ge i k with hlt | hge
  · rw [digit_mul_pow3_of_lt hlt, if_neg (by omega)]
  · obtain ⟨j, rfl⟩ := Nat.exists_eq_add_of_le hge
    rw [digit_add_mul_pow3, digit_val, if_pos (by omega), show ((k + j : Nat) : Int) - k = j by omega,
      Int.toNat_natCast]

/-- A right shift moves every digit `k` positions down, which is `k` steps of the repeated division of R12. -/
theorem shiftTrits_neg_natCast (x : Word) (k : Nat) : shiftTrits x (-k) = word (carry k x.val) := by
  refine Trits.ext_get fun i hi => ?_
  rw [get_shiftTrits x _ hi, word, get_enc _ hi, carry_eq_quot3, digit_quot3, digit_val,
    show (i : Int) - -(k : Int) = (k + i : Nat) by omega, Int.toNat_natCast]
  split
  · rfl
  · rw [Trits.get_of_le x (by omega)]

theorem shiftTrits_of_27_le_abs (x : Word) {k : Int} (h : 27 ≤ |k|) : shiftTrits x k = zeroWord := by
  have hfar := le_abs.1 h
  exact Trits.ext_get fun i hi => by rw [get_shiftTrits x k hi, get_zeroWord, if_neg (by omega)]

theorem val_word_carry (x : Word) (k : Nat) : (word (carry k x.val)).val = carry k x.val := by
  rw [carry_eq_quot3]
  have h := abs_le.1 ((abs_quot3_le k x.val).trans (abs_word_val_le x))
  exact val_word_of_bounds h.1 h.2

theorem val_shiftTrits (x : Word) (k : Int) :
    (shiftTrits x k).val =
      if 27 ≤ |k| then 0 else if 0 ≤ k then wrap 27 (x.val * pow3 k.toNat) else carry k.natAbs x.val := by
  split
  next hfar => rw [shiftTrits_of_27_le_abs x hfar, val_zeroWord]
  next =>
    split
    next hleft =>
      obtain ⟨n, rfl⟩ := Int.eq_ofNat_of_zero_le hleft
      rw [shiftTrits_natCast, val_word, Int.toNat_natCast]
    next hright =>
      obtain ⟨n, rfl⟩ := Int.exists_eq_neg_ofNat (not_le.1 hright).le
      rw [shiftTrits_neg_natCast, val_word_carry, Int.natAbs_neg, Int.natAbs_natCast]

/-- Settles O11: `val_shiftTrits` is the value of the word that TSHIFT writes. -/
theorem shiftResult : Obligations.ShiftResult := fun rd rs1 rs2 s =>
  ⟨_, exec_tshift rd rs1 rs2 s, s.wroteAlu_aluWrite rd (val_shiftTrits ..) rfl⟩

/-! ### The trit-by-trit compare (R189) -/

/-- The leading trit in which two numbers differ decides their order, and it is the leading trit of the compare. -/
theorem sign_sumTrits_tritCompare (f g : Nat → Trit) (n : Nat) :
    sign (sumTrits (fun i => tritCompare (f i) (g i)) n) = sign (sumTrits f n - sumTrits g n) := by
  induction n with
  | zero => rfl
  | succ n ih =>
    have hdiff : sumTrits f (n + 1) - sumTrits g (n + 1) =
        sumTrits f n - sumTrits g n + ((f n).val - (g n).val) * pow3 n := by simp only [sumTrits]; ring
    rw [hdiff, sign_add_mul_pow3 (abs_sumTrits_sub_lt f g n), sumTrits, sign_add_mul_pow3 (abs_sumTrits_lt _ n),
      ih, sign_of_val]
    simp only [tritCompare, val_sign, Int.sign_eq_zero_iff_zero]

/-- Settles O12: FLAGS.sign is the sign of the compare's word, whose leading trit orders the operands. -/
theorem tritCompareOrders : Obligations.TritCompareOrders := fun rd rs1 rs2 s =>
  have hwrote := wroteAluTrits_zipTrits rd s tritCompare (s.reg rs1) (s.reg rs2)
  have ⟨_, hsign, _⟩ := hwrote
  ⟨_, exec_tcmp rd rs1 rs2 s, hwrote, hsign.trans (sign_sumTrits_tritCompare (s.reg rs1).get (s.reg rs2).get 27)⟩

/-! ### The logic in force (R181) -/

/-- Settles O7: one branch of `logicMode` for each clause. -/
theorem logicModeSelection : Obligations.LogicModeSelection := by
  refine ⟨fun s h => ?kleene, fun s h => ?b3, fun s h hlx => ?heyting, fun s h hlx => ?lukasiewicz,
    fun s h hlx => ?rm3, ?reset⟩
  case kleene | b3 => rw [State.logicMode, h]
  case heyting | lukasiewicz | rm3 => rw [State.logicMode, State.lx, h, hlx]
  case reset => rfl

/-! ### AND, OR, NOT, consensus (R190, R191, R192, R195) -/

section
variable {m : LogicMode}

/-- Outside B3, AND is the minimum (R190). -/
theorem tand_eq_tritMin (hm : m ≠ .b3) (a b : Trit) : tand m a b = tritMin a b := by
  cases m with
  | b3 => exact absurd rfl hm
  | _ => cases a <;> cases b <;> rfl

/-- Outside B3, OR is the maximum (R191). -/
theorem tor_eq_tritMax (hm : m ≠ .b3) (a b : Trit) : tor m a b = tritMax a b := by
  cases m with
  | b3 => exact absurd rfl hm
  | _ => cases a <;> cases b <;> rfl

/-- Outside Heyting, NOT is negation (R192). -/
theorem tnot_eq_tritNeg (hm : m ≠ .heyting) (a : Trit) : tnot m a = tritNeg a := by
  cases m with
  | heyting => exact absurd rfl hm
  | _ => cases a <;> rfl

theorem val_tand (hm : m ≠ .b3) (a b : Trit) : (tand m a b).val = min a.val b.val := by
  rw [tand_eq_tritMin hm, val_tritMin]

theorem val_tor (hm : m ≠ .b3) (a b : Trit) : (tor m a b).val = max a.val b.val := by
  rw [tor_eq_tritMax hm, val_tritMax]

theorem val_tnot (hm : m ≠ .heyting) (a : Trit) : (tnot m a).val = -a.val := by
  rw [tnot_eq_tritNeg hm, val_tritNeg]

end

/-- In B3 Z is infectious; on N and P alone AND is the minimum (R190). -/
theorem tand_b3 (a b : Trit) : tand .b3 a b = if a = .Z ∨ b = .Z then .Z else tritMin a b := by
  cases a <;> cases b <;> rfl

/-- In B3 Z is infectious; on N and P alone OR is the maximum (R191). -/
theorem tor_b3 (a b : Trit) : tor .b3 a b = if a = .Z ∨ b = .Z then .Z else tritMax a b := by
  cases a <;> cases b <;> rfl

theorem tcons_eq_ite (a b : Trit) : tcons a b = if a = b then a else .Z := by
  cases a <;> cases b <;> rfl

theorem tacons_self (a : Trit) : tacons a a = .Z := by cases a <;> rfl

/-- Settles O8: the closed forms of each table, and the remaining cells by evaluation. -/
theorem logicTables : Obligations.LogicTables := by
  refine ⟨fun m a b hm => ⟨val_tand hm a b, val_tor hm a b⟩, fun a b h => ?infectious, fun a b ha hb => ?classical,
    fun m a hm => val_tnot hm a, by decide, fun a => ⟨?agree, tacons_self a⟩, fun a b h => ?differ, by decide⟩
  case infectious => rw [tand_b3, tor_b3, if_pos h, if_pos h]; exact ⟨rfl, rfl⟩
  case classical =>
    have h : ¬ (a = .Z ∨ b = .Z) := not_or.2 ⟨ha, hb⟩
    rw [tand_b3, tor_b3, if_neg h, if_neg h]
    exact ⟨val_tritMin a b, val_tritMax a b⟩
  case agree => rw [tcons_eq_ite, if_pos rfl]
  case differ => rw [tcons_eq_ite, if_neg h]

/-! ### The five implications (R193) -/

/-- Kleene and B3 define the implication of `a` and `b` as NOT `a` OR `b`. -/
theorem timpl_kleene (a b : Trit) : timpl .kleene a b = tor .kleene (tnot .kleene a) b := by
  cases a <;> cases b <;> rfl

theorem timpl_b3 (a b : Trit) : timpl .b3 a b = tor .b3 (tnot .b3 a) b := by
  cases a <;> cases b <;> rfl

theorem val_timpl_lukasiewicz (a b : Trit) : (timpl .lukasiewicz a b).val = min 1 (-a.val + b.val + 1) := by
  cases a <;> cases b <;> rfl

theorem timpl_lukasiewicz_eq_P_iff (a b : Trit) : timpl .lukasiewicz a b = .P ↔ a.val ≤ b.val := by
  have hval := val_timpl_lukasiewicz a b
  constructor
  · intro h
    rw [h, Trit.val_P] at hval
    omega
  · intro h
    exact Trit.val_injective (by rw [hval, Trit.val_P]; omega)

theorem timpl_heyting (a b : Trit) : timpl .heyting a b = if a.val ≤ b.val then .P else b := by
  cases a <;> cases b <;> rfl

/-- The Heyting implication is the residual of AND: the greatest `c` with `a` AND `c` at most `b`. -/
theorem val_tand_heyting_le_iff (a b c : Trit) :
    (tand .heyting a c).val ≤ b.val ↔ c.val ≤ (timpl .heyting a b).val := by
  have hc := c.val_bounds
  rw [val_tand (by decide), timpl_heyting]
  split
  next hle => rw [Trit.val_P]; omega
  next hlt => omega

/-- The logic whose implication has the row `zn`, `zz`, `zp` for the antecedent Z. -/
def modeOfRowZ : Trit → Trit → Trit → LogicMode
  | .Z, .Z, .P => .kleene
  | .Z, .P, _ => .lukasiewicz
  | .N, .P, _ => .heyting
  | .N, .Z, _ => .rm3
  | _, _, _ => .b3

theorem modeOfRowZ_timpl (m : LogicMode) : modeOfRowZ (timpl m .Z .N) (timpl m .Z .Z) (timpl m .Z .P) = m := by
  cases m <;> rfl

/-- The row of the antecedent Z already tells the five tables apart. -/
theorem timpl_injective {m n : LogicMode} (h : ∀ a b, timpl m a b = timpl n a b) : m = n := by
  rw [← modeOfRowZ_timpl m, ← modeOfRowZ_timpl n, h, h, h]

/-- Settles O9: each table by its formula, the difference of the tables by the row that recovers the mode. -/
theorem implicationTables : Obligations.ImplicationTables := by
  refine ⟨fun a b => ?kleene, fun a b => ⟨val_timpl_lukasiewicz a b, timpl_lukasiewicz_eq_P_iff a b⟩,
    fun a b => ⟨(val_tand_heyting_le_iff a b _).2 le_rfl, fun c => (val_tand_heyting_le_iff a b c).1⟩,
    fun _ => rfl, fun b => ?rm3, by decide, timpl_b3, fun m n hmn => ?different⟩
  case kleene => rw [timpl_kleene, val_tor (by decide), val_tnot (by decide)]
  case rm3 => cases b <;> rfl
  case different =>
    by_contra hsame
    push Not at hsame
    exact hmn (timpl_injective hsame)

end Sys2Proof.Machine
end

section
/-! SUPPORT. The instructions on immediates and memory (ImmediateResult, LoadResult, StoreResult). -/

namespace Sys2Proof.Machine

/-! ### Immediates (R212, R213, R214) -/

section
variable (rd rs1 : Reg) (imm : Int) (s : State)

theorem exec_li : exec (.li rd imm) s = .next (s.regWrite rd (word imm)) := rfl

theorem exec_lui : exec (.lui rd imm) s = .next (s.regWrite rd (word (imm * 59049))) := rfl

theorem exec_addi : exec (.addi rd rs1 imm) s = .next (s.regWrite rd (word ((s.reg rs1).val + imm))) := rfl

end

/-- Settles O13: each instruction ends in `regWrite`; a 17-trit immediate shifted by ten trits still fits a word, so
only ADDI wraps. -/
theorem immediateResult : Obligations.ImmediateResult := by
  intro rd rs1 imm s hlo hhi
  refine ⟨⟨_, exec_li .., ?li⟩, ⟨_, exec_lui .., ?lui⟩, ⟨_, exec_addi .., ?addi⟩⟩
  case li | lui => exact s.wroteReg_regWrite rd (val_word_of_bounds (by unfold H; omega) (by unfold H; omega))
  case addi => exact s.wroteReg_regWrite rd (val_word _)

/-! ### Loads and stores that go through (R210, R211) -/

/-- The effective address wraps to the address space (R218). -/
theorem State.val_effectiveAddress (s : State) (rs1 : Reg) (imm : Int) :
    (s.effectiveAddress rs1 imm).val = wrap 27 ((s.reg rs1).val + imm) := val_word _

theorem exec_load_of_canAccess {s : State} {rs1 : Reg} {imm : Int} (rd : Reg)
    (h : CanAccess s (s.effectiveAddress rs1 imm).val .read) :
    exec (.load rd rs1 imm) s = .next (s.regWrite rd (s.mem.read (s.effectiveAddress rs1 imm).val)) := by
  obtain ⟨hkind, hmpu⟩ := h
  show finish s ((s.readMem _).map _) = _
  rw [State.readMem_eq hkind hmpu]
  rfl

theorem exec_store_of_canAccess {s : State} {rs1 : Reg} {imm : Int} (rsrc : Reg)
    (h : CanAccess s (s.effectiveAddress rs1 imm).val .write) :
    exec (.store rsrc rs1 imm) s =
      .next { s with mem := s.mem.write (s.effectiveAddress rs1 imm).val (s.reg rsrc), pc := s.nextPc } := by
  obtain ⟨hkind, hmpu⟩ := h
  show finish s ((s.writeMem _ _).map _) = _
  rw [State.writeMem_eq hkind hmpu]
  rfl

/-- Settles O14: a load that goes through ends in `regWrite` of the word read. -/
theorem loadResult : Obligations.LoadResult := fun rd rs1 imm s =>
  ⟨s.val_effectiveAddress rs1 imm, fun h => ⟨_, exec_load_of_canAccess rd h, s.regWrite_spec rd _⟩⟩

/-- Settles O15: a store that goes through writes memory and pc, and the read laws of memory say what it holds then. -/
theorem storeResult : Obligations.StoreResult := fun rsrc _ _ s h =>
  ⟨_, exec_store_of_canAccess rsrc h, s.val_nextPc, rfl, fun hwf => Memory.read_write_same hwf _ _,
    fun _ ha => Memory.read_write_ne s.mem _ ha⟩

end Sys2Proof.Machine
end

section
/-! SUPPORT. Branches, jumps and the call (BranchResult, JumpsAndCall). -/

namespace Sys2Proof.Machine

/-! ### Where a branch goes -/

/-- A branch taken exactly when `p` holds goes to its target under `p` and to the next instruction otherwise (R230). -/
theorem State.wentTo_branchIf_of_iff (s : State) {taken : Bool} {p : Prop} [Decidable p] (h : taken = true ↔ p)
    (off : Int) : WentTo s (s.branchIf taken off) (if p then s.pc.val + off else s.pc.val + 1) := by
  rw [← if_congr h rfl rfl]
  exact s.wentTo_branchIf taken off

theorem State.wentTo_advance (s : State) : WentTo s s.advance (s.pc.val + 1) := s.wentTo_branchIf false 0

theorem State.wentTo_jump_branchTarget (s : State) (off : Int) :
    WentTo s (s.jump (s.branchTarget off)) (s.pc.val + off) := s.wentTo_jump (val_word _)

/-- A mask trit P selects its value of FLAGS.sign, any other mask trit selects nothing (R239, D23). -/
theorem flagMatch_iff (mN mZ mP sgn : Trit) :
    flagMatch mN mZ mP sgn = true ↔ (mN = .P ∧ sgn = .N) ∨ (mZ = .P ∧ sgn = .Z) ∨ (mP = .P ∧ sgn = .P) := by
  cases sgn <;> simp [flagMatch]

theorem flagMatch_PPP (sgn : Trit) : flagMatch .P .P .P sgn = true := by cases sgn <;> rfl

theorem flagMatch_ZZZ (sgn : Trit) : flagMatch .Z .Z .Z sgn = false := by cases sgn <;> rfl

/-! ### What the instructions do -/

section
variable (rs1 : Reg) (mN mZ mP : Trit) (off : Int) (s : State)

theorem exec_beq : exec (.beq rs1 off) s = .next (s.branchIf (decide ((s.reg rs1).val = 0)) off) := rfl

theorem exec_bne : exec (.bne rs1 off) s = .next (s.branchIf (decide ((s.reg rs1).val ≠ 0)) off) := rfl

theorem exec_blt : exec (.blt rs1 off) s = .next (s.branchIf (decide ((s.reg rs1).val < 0)) off) := rfl

theorem exec_bgt : exec (.bgt rs1 off) s = .next (s.branchIf (decide (0 < (s.reg rs1).val)) off) := rfl

theorem exec_ble : exec (.ble rs1 off) s = .next (s.branchIf (decide ((s.reg rs1).val ≤ 0)) off) := rfl

theorem exec_bge : exec (.bge rs1 off) s = .next (s.branchIf (decide (0 ≤ (s.reg rs1).val)) off) := rfl

theorem exec_bf : exec (.bf mN mZ mP off) s = .next (s.branchIf (flagMatch mN mZ mP s.flagSign) off) := rfl

theorem exec_jmp : exec (.jmp off) s = .next (s.jump (s.branchTarget off)) := rfl

theorem exec_jmpa : exec (.jmpa rs1 off) s = .next (s.jump (s.effectiveAddress rs1 off)) := rfl

theorem exec_call : exec (.call off) s = .next ((s.setReg 1 s.nextPc).jump (s.branchTarget off)) := rfl

end

/-- BRT3 falls through on P and branches by its first or second offset on Z or N (R241). -/
theorem exec_brt3_wentTo (rX : Reg) (offZ offN : Int) (s : State) :
    ∃ t, exec (.brt3 rX offZ offN) s = .next t ∧
      WentTo s t (match (s.reg rX).get 0 with
        | .P => s.pc.val + 1
        | .Z => s.pc.val + offZ
        | .N => s.pc.val + offN) := by
  show ∃ t, execBrt3 rX offZ offN s = .next t ∧ _
  unfold execBrt3
  cases (s.reg rX).get 0 with
  | P => exact ⟨_, rfl, s.wentTo_advance⟩
  | Z => exact ⟨_, rfl, s.wentTo_jump_branchTarget offZ⟩
  | N => exact ⟨_, rfl, s.wentTo_jump_branchTarget offN⟩

/-- Settles O20: each branch ends in `branchIf` of its condition, and BRT3 follows its trit. -/
theorem branchResult : Obligations.BranchResult := by
  refine ⟨fun rs1 off s => ⟨⟨_, exec_beq .., ?beq⟩, ⟨_, exec_bne .., ?bne⟩, ⟨_, exec_blt .., ?blt⟩,
      ⟨_, exec_bgt .., ?bgt⟩, ⟨_, exec_ble .., ?ble⟩, ⟨_, exec_bge .., ?bge⟩⟩,
    fun rX mN mZ mP off offZ offN s => ⟨⟨_, exec_bf .., ?bf⟩, ⟨_, exec_bf .., ?always⟩, ⟨_, exec_bf .., ?never⟩,
      exec_brt3_wentTo rX offZ offN s⟩⟩
  case beq | bne | blt | bgt | ble | bge => exact s.wentTo_branchIf_of_iff decide_eq_true_iff off
  case bf => exact s.wentTo_branchIf_of_iff (flagMatch_iff mN mZ mP s.flagSign) off
  case always => rw [flagMatch_PPP]; exact s.wentTo_branchIf true off
  case never => rw [flagMatch_ZZZ]; exact s.wentTo_branchIf false off

/-! ### The link of CALL -/

theorem State.jump_advance (s : State) (a : Word) : s.advance.jump a = s.jump a := by
  simp only [State.jump, State.advance]

/-- CALL is the register write of the next address to r1, with another pc (R243). -/
theorem exec_call_eq_regWrite (off : Int) (s : State) :
    exec (.call off) s = .next ((s.regWrite 1 s.nextPc).jump (s.branchTarget off)) := by
  rw [State.regWrite, State.jump_advance, exec_call]

/-- A jump after a register write leaves the frame of that write. -/
theorem FrameReg.jump {s t : State} {rd : Reg} (h : FrameReg s t rd) (a : Word) : FrameReg s (t.jump a) rd := by
  obtain ⟨hfields, hregs, hmem⟩ := h
  exact ⟨by rw [hfields]; rfl, fun r hr => (t.reg_jump a r).trans (hregs r hr), hmem⟩

/-- Settles O21: the jumps write pc only; CALL jumps after the register write of the next address to r1. -/
theorem jumpsAndCall : Obligations.JumpsAndCall := by
  intro rs1 off s
  obtain ⟨hlink, hframe, _⟩ := s.regWrite_spec 1 s.nextPc
  exact ⟨⟨_, exec_jmp .., s.wentTo_jump_branchTarget off⟩,
    ⟨_, exec_jmpa rs1 off s, s.wentTo_jump (s.val_effectiveAddress rs1 off)⟩,
    ⟨_, exec_call_eq_regWrite off s, regHolds_word ((State.reg_jump _ _ 1).trans hlink) s.val_nextPc, hframe.jump _,
      val_word _⟩⟩

end Sys2Proof.Machine
end

section
/-! SUPPORT. CSR accesses that go through (CsrReadResult, CsrWriteResult, CsrExchangeResult), the environment calls,
NOP and HALT (EnvironmentCallsNopHalt), and the return from an exception (ReturnFromException). -/

namespace Sys2Proof.Machine

/-! ### Environment calls, NOP and HALT -/

section
variable (s : State)

theorem exec_ecall : exec .ecall s = .next (s.trap excEcallU zeroWord s.pc) := rfl

theorem exec_hcall : exec .hcall s = .next (s.trap excEcallH zeroWord s.pc) := rfl

theorem exec_dbgbrk : exec .dbgbrk s = .next (s.trap excEcallD zeroWord s.pc) := rfl

theorem exec_nop : exec .nop s = .next s.advance := rfl

theorem exec_halt : exec .halt s = .next { s with halted := true } := rfl

theorem exec_iret : exec .iret s = finish s s.exceptionReturn := rfl

end

theorem State.advances_advance (s : State) : Advances s s.advance := s.val_nextPc

/-- The halted state is final (R266, D21). -/
theorem step_of_halted {s : State} (h : s.halted = true) : step s = .next s := if_pos h

/-- Settles O30: each is its entry, its advance or its flag, in every state. -/
theorem environmentCallsNopHalt : Obligations.EnvironmentCallsNopHalt :=
  ⟨fun s => ⟨exec_ecall s, exec_hcall s, exec_dbgbrk s⟩,
    fun s => ⟨_, exec_nop s, s.framePc_advance, s.advances_advance⟩, exec_halt, fun _ => step_of_halted⟩

/-! ### The return from an exception -/

theorem State.exceptionReturn_of_depth_P {s : State} (h : s.depth = .P) :
    s.exceptionReturn = s.restore s.epc s.esave := by
  simp [State.exceptionReturn, h]

theorem State.exceptionReturn_of_depth_N {s : State} (h : s.depth = .N) :
    s.exceptionReturn = s.restore s.epc2 s.esave2 := by
  simp [State.exceptionReturn, h]

theorem State.exceptionReturn_of_depth_Z {s : State} (h : s.depth = .Z) :
    s.exceptionReturn = .error (.undefined .iretAtDepthZ) := by
  simp [State.exceptionReturn, h]

/-- Settles O31: the depth names the bank, and a legal saved STATUS is restored. -/
theorem returnFromException : Obligations.ReturnFromException := by
  refine fun s => ⟨fun hd hl => ?_, fun hd hl => ?_, fun hd => ?_⟩
  · rw [exec_iret, State.exceptionReturn_of_depth_P hd, State.restore_ok.2 ⟨hl, rfl⟩, finish_ok]
  · rw [exec_iret, State.exceptionReturn_of_depth_N hd, State.restore_ok.2 ⟨hl, rfl⟩, finish_ok]
  · rw [exec_iret, State.exceptionReturn_of_depth_Z hd, finish_undefined]

/-! ### The words that CSR reads build -/

theorem State.val_csrRead_flags (s : State) :
    (s.csrRead .flags).1.val = s.flagSign.val + 3 * s.flagCarry.val := by
  rw [State.csrRead, val_ofFn]
  simp [sumTrits, pow3]
  ring

theorem State.val_csrRead_mpuSelect (s : State) : (s.csrRead .mpuSelect).1.val = s.mpuSelect.val :=
  val_word_of_bounds (by unfold H; omega) (by unfold H; omega)

/-- A descriptor's packed view is worth its fields at their weights (R39). -/
theorem MpuDesc.val_config (d : MpuDesc) :
    d.config.val = d.permR.val + 3 * d.permW.val + 9 * d.permX.val + 27 * d.size.val + 2187 * d.valid.val := by
  rw [MpuDesc.config, val_ofFn]
  simp [sumTrits, Trits.val, pow3]
  ring

/-- The word of nine latches, latch by latch (R42). -/
theorem get_lineWord_lineBit (v : Vector Bool 9) (i : Nat) :
    (lineWord (lineBit v)).get i = if h : i < 9 then (if v[i] then .P else .Z) else .Z := by
  rw [get_lineWord]
  by_cases h : i < 9
  · simp [h, lineBit_of_lt]
  · simp [h]

/-- The word of the pending lines, line by line (R41, R461). -/
theorem State.get_lineWord_pending (s : State) (lines : IrqLines) (i : Nat) :
    (lineWord (s.pending lines)).get i =
      if h : i < 9 then (if lines[i] || s.swpend[i] then .P else .Z) else .Z := by
  rw [get_lineWord]
  by_cases h : i < 9
  · simp [h, State.pending, lineBit_of_lt]
  · simp [h]

/-! ### CSRR -/

theorem State.pc_csrRead (s : State) (c : Csr) : (s.csrRead c).2.pc = s.pc := by
  rw [State.csrRead_state_eq]
  split <;> rfl

theorem State.reg_csrRead (s : State) (c : Csr) (r : Reg) : (s.csrRead c).2.reg r = s.reg r := by
  rw [State.csrRead_state_eq]
  split <;> rfl

theorem Advances.of_pc_eq {s s' t : State} (h : Advances s' t) (hpc : s'.pc = s.pc) : Advances s t := by
  rwa [Advances, hpc] at h

/-- A CSRR that the mode may make is the register write of the value read (R260). -/
theorem exec_csrr_of_canName {s : State} {c : Csr} (hn : CanName s c) (rd : Reg) (lo : Trits 3) (hi : Trits 14) :
    exec (.csrr rd c lo hi) s = .next ((s.csrRead c).2.regWrite rd (s.csrRead c).1) := by
  show finish s (s.csrLoad rd c _) = _
  rw [State.csrLoad, State.csrCheck_ok hn]
  rfl

/-- Settles O22: the words built are read back by value or by trit, and CSRR is a register write after the read. -/
theorem csrReadResult : Obligations.CsrReadResult := by
  refine ⟨fun s => ⟨rfl, rfl, rfl, rfl, rfl, rfl, rfl, rfl, rfl, rfl, rfl, rfl, rfl, s.val_csrRead_flags,
      s.val_csrRead_mpuSelect, rfl, s.selected.val_config, get_lineWord_lineBit s.ienable,
      s.get_lineWord_pending s.sampleLines.1, fun _ => rfl⟩, fun rd c lo hi s hn => ?_⟩
  obtain ⟨hreg, hframe, hadv⟩ := (s.csrRead c).2.regWrite_spec rd (s.csrRead c).1
  rw [← State.csrRead_state_eq]
  exact ⟨_, exec_csrr_of_canName hn rd lo hi, hreg, hframe, hadv.of_pc_eq (s.pc_csrRead c)⟩

/-! ### CSRW -/

/-- A CSRW that the mode may make and whose value is accepted is the CSR write, then the next pc (R261). -/
theorem exec_csrw_of_csrWrite {s u : State} {c : Csr} {rs1 : Reg} {lo : Trits 3} {hi : Trits 14} (hn : CanName s c)
    (h : s.csrWrite c (s.reg rs1) (encode (.csrw c rs1 lo hi)) = .ok u) :
    exec (.csrw c rs1 lo hi) s = .next u.advance := by
  show finish s (s.csrStore c rs1 _) = _
  rw [State.csrStore, State.csrCheck_ok hn]
  simp only [Except.bind, h, Except.map, finish_ok]

theorem State.csrWrite_status_of_legal (s : State) {v : Word} (h : statusLegal v = true) (raw : Word) :
    s.csrWrite .status v raw = .ok { s with status := v } := by
  simp [State.csrWrite, (statusRefusal_none v).2 h]

theorem State.csrWrite_mpuSelect_of_inRange (s : State) {v : Word} (h : inRange 0 8 v.val = true) (raw : Word) :
    s.csrWrite .mpuSelect v raw = .ok { s with mpuSelect := Fin.ofNat 9 v.val.toNat } := if_pos h

/-- A descriptor with the fields that a write to MPU_CFG assigns (R39). -/
def MpuDesc.withConfig (d : MpuDesc) (v : Word) : MpuDesc :=
  { d with permR := v.get 0, permW := v.get 1, permX := v.get 2, size := v.slice 3 4, valid := v.get 7 }

theorem State.csrWrite_mpuCfg_of_legal (s : State) {v : Word} (h : configLegal v = true) (raw : Word) :
    s.csrWrite .mpuCfg v raw = .ok (s.setSelected (s.selected.withConfig v)) := if_pos h

theorem inRange_iff {lo hi n : Int} : inRange lo hi n = true ↔ lo ≤ n ∧ n ≤ hi := by simp [inRange]

/-- The legal MPU_CFG words are read back as they were written (R39). -/
theorem MpuDesc.config_withConfig (d : MpuDesc) {v : Word} (h : configLegal v = true) :
    (d.withConfig v).config = v := by
  obtain ⟨hz, -⟩ : allZ v 8 19 = true ∧ _ := Bool.and_eq_true_iff.1 h
  refine Trits.ext_get fun i hi => ?_
  rw [MpuDesc.config, Trits.get_ofFn_lt _ hi]
  split_ifs with h0 h1 h2 h6 h7
  · rw [h0]; rfl
  · rw [h1]; rfl
  · rw [h2]; rfl
  · rw [MpuDesc.withConfig, Trits.slice, Trits.get_ofFn_lt _ (by omega), show 3 + (i - 3) = i by omega]
  · rw [h7]; rfl
  · exact ((allZ_iff v 8 19).1 hz i (by omega) (by omega)).symm

theorem State.selected_setSelected (s : State) (d : MpuDesc) : (s.setSelected d).selected = d := by
  simp [State.selected]

theorem State.selected_advance (s : State) : s.advance.selected = s.selected := by
  simp [State.selected]

/-- A write to the selected descriptor leaves the others and everything but the bank and pc (R38). -/
theorem State.advance_setSelected_spec (s : State) (d : MpuDesc) :
    (s.setSelected d).advance =
        { s with mpu := (s.setSelected d).advance.mpu, pc := (s.setSelected d).advance.pc } ∧
      (∀ i : Fin 9, i ≠ s.mpuSelect → (s.setSelected d).advance.mpu[i] = s.mpu[i]) ∧
      (s.setSelected d).advance.mpu[s.mpuSelect] = d := by
  refine ⟨rfl, fun i hi => ?_, ?_⟩
  · rw [State.advance_mpu]
    exact Vector.getElem_set_ne s.mpuSelect.isLt i.isLt fun hv => hi (Fin.ext hv.symm)
  · rw [State.advance_mpu]
    exact s.selected_setSelected d

/-- Nine latches after a write, latch by latch (R41, R42, D35). -/
theorem getElem_lineWrite (old : Vector Bool 9) (v : Word) (k : Fin 9) :
    (lineWrite old v)[k] =
      match v.get k.val with
      | .P => true
      | .Z => false
      | .N => old[k] :=
  Vector.getElem_ofFn k.isLt

/-- Settles O23: the write ends normally, keeps registers and memory, and is taken CSR by CSR. -/
theorem csrWriteResult : Obligations.CsrWriteResult := by
  intro c rs1 lo hi s hn ha
  obtain ⟨u, hu⟩ := State.csrWrite_ok_of_accepts (s := s) (raw := encode (.csrw c rs1 lo hi)) ha
  obtain ⟨hregs, -, hpc, hmem, -⟩ := State.csrWrite_frame hu
  refine ⟨u.advance, exec_csrw_of_csrWrite hn hu, u.advances_advance.of_pc_eq hpc,
    fun r => (u.reg_advance r).trans (State.reg_of_regs_eq hregs r), fun a => by rw [State.advance_mem, hmem], ?_⟩
  cases c with
  | pc => cases ha
  | lmode | flags | epc | ecause | evec | esave | etval | epc2 | ecause2 | esave2 | etval2 | ipriority | reserved =>
    cases hu; rfl
  | status => rw [State.csrWrite_status_of_legal s ha] at hu; cases hu; rfl
  | mpuSelect =>
    rw [State.csrWrite_mpuSelect_of_inRange s ha] at hu
    cases hu
    have hr := inRange_iff.1 ha
    refine ⟨rfl, ?_⟩
    show ((Fin.ofNat 9 (s.reg rs1).val.toNat).val : Int) = _
    rw [Fin.val_ofNat]
    omega
  | mpuBase => cases hu; exact s.advance_setSelected_spec { s.selected with base := s.reg rs1 }
  | mpuCfg =>
    rw [State.csrWrite_mpuCfg_of_legal s ha] at hu
    cases hu
    obtain ⟨hfields, hother, hself⟩ := s.advance_setSelected_spec (s.selected.withConfig (s.reg rs1))
    refine ⟨hfields, hother, by rw [hself]; rfl, ?_⟩
    rw [State.csrRead, State.selected_advance, State.selected_setSelected, MpuDesc.config_withConfig _ ha]
  | ipending => cases hu; exact ⟨rfl, getElem_lineWrite s.swpend (s.reg rs1)⟩
  | ienable => cases hu; exact ⟨rfl, getElem_lineWrite s.ienable (s.reg rs1)⟩

/-! ### CSRX -/

/-- Of an accepted value the raw word, which goes to ETVAL only, makes no difference. -/
theorem State.csrWrite_raw_of_accepts (s : State) {c : Csr} {v : Word} (h : csrAccepts c v = true) (raw raw' : Word) :
    s.csrWrite c v raw = s.csrWrite c v raw' := by
  cases c with
  | mpuSelect => rw [s.csrWrite_mpuSelect_of_inRange h, s.csrWrite_mpuSelect_of_inRange h]
  | mpuCfg => rw [s.csrWrite_mpuCfg_of_legal h, s.csrWrite_mpuCfg_of_legal h]
  | _ => rfl

/-- A CSRX that the mode may make and whose value is accepted is the CSR write after the read, then the register write
of the value read (R262). -/
theorem exec_csrx_of_csrWrite {s u : State} {rd rs1 : Reg} {c : Csr} {hi : Trits 14} (hn : CanName s c)
    (h : (s.csrRead c).2.csrWrite c (s.reg rs1) (encode (.csrx rd rs1 c hi)) = .ok u) :
    exec (.csrx rd rs1 c hi) s = .next (u.regWrite rd (s.csrRead c).1) := by
  show finish s (s.csrExchange rd rs1 c _) = _
  rw [State.csrExchange, State.csrCheck_ok hn]
  simp only [Except.bind, h, Except.map, finish_ok, State.regWrite]

theorem CanName.csrRead {s : State} {c : Csr} (h : CanName s c) : CanName (s.csrRead c).2 c := by
  rw [State.csrRead_state_eq]
  split <;> exact h

/-- The frame of a register write does not depend on the pc before it. -/
theorem FrameReg.of_advance {u t : State} {rd : Reg} (h : FrameReg u t rd) : FrameReg u.advance t rd := by
  obtain ⟨hfields, hregs, hmem⟩ := h
  refine ⟨?_, fun r hr => (hregs r hr).trans (u.reg_advance r).symm, fun a => by rw [State.advance_mem, hmem]⟩
  rw [hfields]
  simp only [State.advance]

theorem csrAccepts_of_csrPlain {c : Csr} (h : csrPlain c = true) (v : Word) : csrAccepts c v = true := by
  cases c with
  | pc | status | mpuSelect | mpuCfg => cases h
  | _ => rfl

/-- A plain CSR reads back the word written, whatever register is written after (R31, R33, R34, R43). -/
theorem State.csrRead_regWrite_of_csrWrite {s u : State} {c : Csr} {v raw : Word} (hp : csrPlain c = true)
    (h : s.csrWrite c v raw = .ok u) (rd : Reg) (w : Word) : ((u.regWrite rd w).csrRead c).1 = v := by
  cases c with
  | pc | flags | status | mpuSelect | mpuBase | mpuCfg | ipending | ienable | reserved => cases hp
  | _ => cases h; simp [State.csrRead, State.regWrite]

/-- Settles O24: both forms write what the read leaves, whatever their raw words; a plain CSR then holds the old rs1. -/
theorem csrExchangeResult : Obligations.CsrExchangeResult := by
  refine ⟨fun rd rs1 c hi s hn ha => ?_, fun r c hi s hn hp hr => ?_⟩
  · obtain ⟨u, hu⟩ := State.csrWrite_ok_of_accepts (s := (s.csrRead c).2) (raw := encode (.csrx rd rs1 c hi)) ha
    obtain ⟨-, -, hpc, -⟩ := State.csrWrite_frame hu
    obtain ⟨hreg, hframe, hadv⟩ := u.regWrite_spec rd (s.csrRead c).1
    have hw : (s.csrRead c).2.csrWrite c ((s.csrRead c).2.reg rs1) (encode (.csrw c rs1 (enc 0 3) hi)) = .ok u := by
      rw [State.reg_csrRead, ← hu]
      exact State.csrWrite_raw_of_accepts _ ha _ _
    rw [← State.csrRead_state_eq]
    exact ⟨_, _, exec_csrx_of_csrWrite hn hu, exec_csrw_of_csrWrite hn.csrRead hw, hreg, hframe.of_advance,
      hadv.of_pc_eq (hpc.trans (s.pc_csrRead c))⟩
  · obtain ⟨u, hu⟩ := State.csrWrite_ok_of_accepts (s := (s.csrRead c).2) (raw := encode (.csrx r r c hi))
      (csrAccepts_of_csrPlain hp (s.reg r))
    obtain ⟨hreg, -⟩ := u.regWrite_spec r (s.csrRead c).1
    exact ⟨_, exec_csrx_of_csrWrite hn hu, hreg.trans (if_neg hr),
      State.csrRead_regWrite_of_csrWrite hp hu r (s.csrRead c).1⟩

end Sys2Proof.Machine
end

section
/-! SUPPORT. The special group (SpecialGroupResult, TritGetSet), the compares (CompareResult), and the instructions
whose result the spec leaves open (OpenValuesStillRun). -/

namespace Sys2Proof.Machine

/-! ### What the instructions do -/

section
variable (rd rs1 rs2 : Reg) (imm : Int) (s : State)

theorem exec_cmp : exec (.cmp rs1 rs2) s = .next (s.compareWrite ((s.reg rs1).val - (s.reg rs2).val)) := rfl

theorem exec_cmpi : exec (.cmpi rs1 imm) s = .next (s.compareWrite ((s.reg rs1).val - imm)) := rfl

theorem exec_tsign : exec (.tsign rd rs1) s = .next (s.regWrite rd (tritWord (sign (s.reg rs1).val))) := rfl

theorem exec_tabs : exec (.tabs rd rs1) s =
    .next (s.regWrite rd (if (s.reg rs1).val < 0 then mapTrits tritNeg (s.reg rs1) else s.reg rs1)) := rfl

theorem exec_tmin : exec (.tmin rd rs1) s = .next (s.regWrite rd (tritWord (minTrit (s.reg rs1)))) := rfl

theorem exec_tmax : exec (.tmax rd rs1) s = .next (s.regWrite rd (tritWord (maxTrit (s.reg rs1)))) := rfl

theorem exec_tsetn : exec (.tsetn rd rs1 rs2) s = .next (s.setTrit rd rs1 rs2 .N) := rfl

theorem exec_tsetz : exec (.tsetz rd rs1 rs2) s = .next (s.setTrit rd rs1 rs2 .Z) := rfl

theorem exec_tsetp : exec (.tsetp rd rs1 rs2) s = .next (s.setTrit rd rs1 rs2 .P) := rfl

theorem exec_fadd : exec (.fadd rd rs1 rs2) s = .next (s.tfpBinary .fadd tfpAdd rd rs1 rs2) := rfl

theorem exec_fsub : exec (.fsub rd rs1 rs2) s = .next (s.tfpBinary .fsub tfpSub rd rs1 rs2) := rfl

theorem exec_fmul : exec (.fmul rd rs1 rs2) s = .next (s.tfpBinary .fmul tfpMul rd rs1 rs2) := rfl

theorem exec_fdiv : exec (.fdiv rd rs1 rs2) s = .next (s.tfpBinary .fdiv tfpDiv rd rs1 rs2) := rfl

theorem exec_fcvti : exec (.fcvti rd rs1) s = .next (s.tfpToInt .fcvti roundNearest rd rs1) := rfl

theorem exec_fcvtiz : exec (.fcvtiz rd rs1) s = .next (s.tfpToInt .fcvtiz roundToZero rd rs1) := rfl

end

/-! ### The compares (R215, R294) -/

theorem State.wroteFlags_compareWrite (s : State) {d : Int} (h1 : -11438396227480 ≤ d) (h2 : d ≤ 11438396227480) :
    WroteFlags s (s.compareWrite d) (sign d) (carry 27 d) :=
  have ⟨hsign, hcarry, hframe, hadv⟩ := s.compareWrite_spec d
  ⟨hsign, by rw [hcarry, val_carryTrit h1 h2], hframe, hadv⟩

/-- Settles O17: the difference of two words, or of a word and a 17-trit immediate, has a carry of one trit. -/
theorem compareResult : Obligations.CompareResult := by
  intro rs1 rs2 imm s hlo hhi
  have h1 := word_val_bounds (s.reg rs1)
  have h2 := word_val_bounds (s.reg rs2)
  unfold H at h1 h2
  exact ⟨⟨_, exec_cmp .., s.wroteFlags_compareWrite (by omega) (by omega)⟩,
    ⟨_, exec_cmpi .., s.wroteFlags_compareWrite (by omega) (by omega)⟩⟩

/-! ### Selection, sign, magnitude, extremes (R290, R293, R295, R296, R297) -/

/-- The register that TSEL reads (R290). -/
def tselSource : Trit → Reg → Reg → Reg → Reg
  | .N, rn, _, _ => rn
  | .Z, _, rz, _ => rz
  | .P, _, _, rp => rp

theorem exec_tsel (rd rn rz rp : Reg) (s : State) :
    exec (.tsel rd rn rz rp) s = .next (s.regWrite rd (s.reg (tselSource s.flagSign rn rz rp))) := by
  show execTsel rd rn rz rp s = _
  unfold execTsel
  cases s.flagSign <;> rfl

/-- Negating the trits of a negative word makes its value the absolute value (R295). -/
theorem val_negate_if_negative (x : Word) : (if x.val < 0 then mapTrits tritNeg x else x).val = |x.val| := by
  split
  next hneg => rw [val_mapTrits_tritNeg, abs_of_neg hneg]
  next hpos => rw [abs_of_nonneg (not_lt.1 hpos)]

/-- Settles O34: each instruction ends in `regWrite`; `minTrit` and `maxTrit` are the two extreme trits. -/
theorem specialGroupResult : Obligations.SpecialGroupResult := by
  refine ⟨fun rd rn rz rp s => ⟨_, exec_tsel .., s.wroteReg_regWrite rd ?select⟩,
    fun rd rs1 s => ⟨⟨_, exec_tsign .., s.wroteReg_regWrite rd (val_tritWord _)⟩,
      ⟨_, exec_tabs .., s.wroteReg_regWrite rd (val_negate_if_negative _)⟩⟩, fun rd rs1 s => ?extremes⟩
  case select => cases s.flagSign <;> rfl
  case extremes =>
    obtain ⟨hleast, hmin⟩ := minTrit_spec (s.reg rs1)
    obtain ⟨hgreatest, hmax⟩ := maxTrit_spec (s.reg rs1)
    exact ⟨_, _, fun i hi => ⟨hleast i hi, hgreatest i hi⟩, hmin, hmax,
      ⟨_, exec_tmin .., s.wroteReg_regWrite rd (val_tritWord _)⟩,
      ⟨_, exec_tmax .., s.wroteReg_regWrite rd (val_tritWord _)⟩⟩

/-! ### One trit read or replaced (R291, R292) -/

theorem tritIndex_natCast {k : Nat} (h : k ≤ 26) : tritIndex k = some k := by
  rw [tritIndex, if_pos (by omega), Int.toNat_natCast]

theorem tritIndex_of_outside {k : Int} (h : k < 0 ∨ 26 < k) : tritIndex k = none :=
  if_neg (by omega)

section
variable {s : State} {rs2 : Reg}

theorem exec_tget_of_tritIndex {k : Nat} (h : tritIndex (s.regVal rs2) = some k) (rd rs1 : Reg) :
    exec (.tget rd rs1 rs2) s = .next (s.regWrite rd (tritWord ((s.reg rs1).get k))) := by
  show execTget rd rs1 rs2 s = _
  unfold execTget
  rw [h]

theorem exec_tget_of_no_tritIndex (h : tritIndex (s.regVal rs2) = none) (rd rs1 : Reg) :
    exec (.tget rd rs1 rs2) s =
      .next (s.drawFree.2.regWrite rd (Trits.ofFn (Config.tgetOob s.drawFree.1 (s.reg rs1) (s.reg rs2)))) := by
  show execTget rd rs1 rs2 s = _
  unfold execTget
  rw [h]

theorem State.setTrit_of_tritIndex {k : Nat} (h : tritIndex (s.regVal rs2) = some k) (rd rs1 : Reg) (t : Trit) :
    s.setTrit rd rs1 rs2 t = s.regWrite rd (put (s.reg rs1) k t) := by
  unfold State.setTrit
  rw [h]

theorem State.setTrit_of_no_tritIndex (h : tritIndex (s.regVal rs2) = none) (rd rs1 : Reg) (t : Trit) :
    s.setTrit rd rs1 rs2 t =
      s.drawFree.2.regWrite rd (Trits.ofFn (Config.tsetOob s.drawFree.1 (s.reg rs1) (s.reg rs2) t)) := by
  unfold State.setTrit
  rw [h]

/-- The word with trit `k` replaced differs from the source by the change of that trit at its weight. -/
theorem State.wroteReg_setTrit {k : Nat} (hk : k ≤ 26) (h : tritIndex (s.regVal rs2) = some k) (rd rs1 : Reg)
    (t : Trit) : WroteReg s (s.setTrit rd rs1 rs2 t) rd
      ((s.reg rs1).val + (t.val - ((s.reg rs1).get k).val) * pow3 k) := by
  rw [State.setTrit_of_tritIndex h]
  exact s.wroteReg_regWrite rd (val_put _ t (Nat.lt_succ_of_le hk))

end

/-- Settles O35: an index of 0..26 names a trit, which is read or put back replaced. -/
theorem tritGetSet : Obligations.TritGetSet := by
  intro rd rs1 rs2 s k hk hidx
  have h : tritIndex (s.regVal rs2) = some k := (congrArg tritIndex hidx).trans (tritIndex_natCast hk)
  refine ⟨⟨_, exec_tget_of_tritIndex h rd rs1, s.wroteReg_regWrite rd (val_tritWord _)⟩,
    ⟨_, exec_tsetn .., State.wroteReg_setTrit hk h rd rs1 .N⟩, ⟨_, exec_tsetz .., ?zero⟩,
    ⟨_, exec_tsetp .., State.wroteReg_setTrit hk h rd rs1 .P⟩⟩
  case zero =>
    have hval : (s.reg rs1).val - ((s.reg rs1).get k).val * pow3 k =
        (s.reg rs1).val + (Trit.Z.val - ((s.reg rs1).get k).val) * pow3 k := by rw [Trit.val_Z]; ring
    rw [hval]
    exact State.wroteReg_setTrit hk h rd rs1 .Z

/-! ### The ends of instructions with an open result (log entry 5) -/

theorem State.frameFlags_setFlags_advance (s : State) (a b : Trit) : FrameFlags s (s.setFlags a b).advance :=
  ⟨by simp only [State.advance, State.setFlags], fun _ => by simp⟩

section
variable {x : Result} {s u : State} {rd : Reg}

/-- An instruction that leaves the word of `rd` open draws a number and then writes `rd` as any other. -/
theorem exists_open_regWrite {v : Word} (hx : x = .next u) (hu : u = s.drawFree.2.regWrite rd v) :
    ∃ t, x = .next t ∧ FrameReg { s with freeCount := s.freeCount + 1 } t rd ∧ Advances s t := by
  subst hu
  exact ⟨_, hx, (s.drawFree.2.regWrite_spec rd v).2⟩

/-- The same for an operation that writes `rd` and FLAGS (R320). -/
theorem exists_open_tfpWrite {v : Word} {f : Trit × Trit} (hx : x = .next u)
    (hu : u = s.drawFree.2.tfpWrite rd v f) :
    ∃ t, x = .next t ∧ FrameRegFlags { s with freeCount := s.freeCount + 1 } t rd ∧ Advances s t := by
  subst hu
  obtain ⟨-, -, -, hframe, hadv⟩ := s.drawFree.2.tfpWrite_spec rd v f
  exact ⟨_, hx, hframe, hadv⟩

/-- The same for a compare, which writes FLAGS only (R320). -/
theorem exists_open_setFlags {a b : Trit} (h : x = .next (s.drawFree.2.setFlags a b).advance) :
    ∃ t, x = .next t ∧ FrameFlags { s with freeCount := s.freeCount + 1 } t ∧ Advances s t :=
  ⟨_, h, s.drawFree.2.frameFlags_setFlags_advance a b, (s.drawFree.2.setFlags a b).advances_advance⟩

end

/-! ### Operands that are not T26F values (R320) -/

section
variable {s : State} {rs1 rs2 : Reg}

theorem not_isT26f_and {a b : Word} (h : isT26f a = false ∨ isT26f b = false) :
    ¬ (isT26f a && isT26f b) = true := by
  rw [Bool.not_eq_true, Bool.and_eq_false_iff]
  exact h

theorem State.tfpBinary_of_not_t26f (h : isT26f (s.reg rs1) = false ∨ isT26f (s.reg rs2) = false) (op : TfpOp)
    (f : Tfp → Tfp → Word) (rd : Reg) :
    s.tfpBinary op f rd rs1 rs2 = s.drawFree.2.tfpWrite rd (nonT26fWord s.drawFree.1 op (s.reg rs1) (s.reg rs2))
      (nonT26fFlags s.drawFree.1 op (s.reg rs1) (s.reg rs2)) :=
  if_neg (not_isT26f_and h)

theorem exec_fcmp_of_not_t26f (h : isT26f (s.reg rs1) = false ∨ isT26f (s.reg rs2) = false) :
    exec (.fcmp rs1 rs2) s =
      .next (s.drawFree.2.setFlags (nonT26fFlags s.drawFree.1 .fcmp (s.reg rs1) (s.reg rs2)).1
        (nonT26fFlags s.drawFree.1 .fcmp (s.reg rs1) (s.reg rs2)).2).advance :=
  if_neg (not_isT26f_and h)

theorem State.tfpToInt_of_not_t26f (h : isT26f (s.reg rs1) = false) (op : TfpOp) (round : Rat → Int) (rd : Reg) :
    s.tfpToInt op round rd rs1 = s.drawFree.2.regWrite rd (nonT26fWord s.drawFree.1 op (s.reg rs1) zeroWord) :=
  if_neg (by rw [h]; exact Bool.false_ne_true)

/-! ### Conversions beyond ±H (R336, R337) -/

theorem State.tfpToInt_of_not_converted {round : Rat → Int} (h : isT26f (s.reg rs1) = true)
    (hn : convertedInt round (decodeT26f (s.reg rs1)) = none) (op : TfpOp) (rd : Reg) :
    s.tfpToInt op round rd rs1 =
      s.drawFree.2.regWrite rd (Trits.ofFn (Config.fcvtInvalid s.drawFree.1 op (s.reg rs1))) := by
  simp only [State.tfpToInt, h, if_true, hn]

end

/-- A rounding that loses less than 1 of the magnitude sends a magnitude of `H + 1` or more beyond `H`. -/
theorem convertedInt_eq_none {round : Rat → Int} (hround : ∀ q, |q| < |(round q : Rat)| + 1) {x : Tfp}
    (h : x = .inf ∨ x = .nar ∨ ∃ q, x = .normal q ∧ (H : Rat) + 1 ≤ |q|) : convertedInt round x = none := by
  obtain rfl | rfl | ⟨q, rfl, hq⟩ := h
  · rfl
  · rfl
  · refine if_neg fun hle => ?_
    have hcast : |(round q : Rat)| ≤ (H : Rat) := by exact_mod_cast hle
    linarith [hround q]

theorem abs_lt_abs_roundNearest_add_one (q : Rat) : |q| < |(roundNearest q : Rat)| + 1 := by
  have hlo : (roundNearest q : Rat) ≤ q + 1 / 2 := Int.floor_le _
  have hhi : q + 1 / 2 < (roundNearest q : Rat) + 1 := Int.lt_floor_add_one _
  have hnear : |q - roundNearest q| ≤ 1 / 2 := abs_le.2 ⟨by linarith, by linarith⟩
  linarith [abs_sub_abs_le_abs_sub q (roundNearest q)]

theorem abs_roundToZero (q : Rat) : |roundToZero q| = |q|.floor := by
  rcases eq_or_ne q 0 with rfl | hq
  · rfl
  · have hfloor : 0 ≤ |q|.floor := Int.floor_nonneg.2 (abs_nonneg q)
    rw [roundToZero, val_sign, abs_mul, Int.abs_sign_of_ne_zero (Rat.num_ne_zero.2 hq), one_mul, abs_of_nonneg hfloor]

theorem abs_lt_abs_roundToZero_add_one (q : Rat) : |q| < |(roundToZero q : Rat)| + 1 := by
  rw [← Int.cast_abs, abs_roundToZero]
  exact Int.lt_floor_add_one |q|

/-! ### The obligation -/

/-- Settles O43: in each case the meaning takes the branch that draws an open value, and that branch ends as the
ordinary one does. -/
theorem openValuesStillRun : Obligations.OpenValuesStillRun := by
  refine ⟨fun rd rs1 rs2 s hidx => ?index, fun rd rs1 s ht hx => ⟨?fcvti, ?fcvtiz⟩,
    fun rd rs1 rs2 s => ⟨fun h => ?operands, fun h => ?operand⟩⟩
  case index =>
    have h : tritIndex (s.regVal rs2) = none := tritIndex_of_outside hidx
    have hset (t : Trit) := State.setTrit_of_no_tritIndex h rd rs1 t
    exact ⟨exists_open_regWrite (exec_tget_of_no_tritIndex h rd rs1) rfl,
      exists_open_regWrite (exec_tsetn ..) (hset .N),
      exists_open_regWrite (exec_tsetz ..) (hset .Z),
      exists_open_regWrite (exec_tsetp ..) (hset .P)⟩
  case fcvti =>
    have hnone := convertedInt_eq_none abs_lt_abs_roundNearest_add_one hx
    exact exists_open_regWrite (exec_fcvti ..) (State.tfpToInt_of_not_converted ht hnone _ rd)
  case fcvtiz =>
    have hnone := convertedInt_eq_none abs_lt_abs_roundToZero_add_one hx
    exact exists_open_regWrite (exec_fcvtiz ..) (State.tfpToInt_of_not_converted ht hnone _ rd)
  case operands =>
    have hbin (op : TfpOp) (f : Tfp → Tfp → Word) := State.tfpBinary_of_not_t26f h op f rd
    exact ⟨exists_open_tfpWrite (exec_fadd ..) (hbin _ _),
      exists_open_tfpWrite (exec_fsub ..) (hbin _ _),
      exists_open_tfpWrite (exec_fmul ..) (hbin _ _),
      exists_open_tfpWrite (exec_fdiv ..) (hbin _ _),
      exists_open_setFlags (exec_fcmp_of_not_t26f h)⟩
  case operand =>
    have hconv (op : TfpOp) (round : Rat → Int) := State.tfpToInt_of_not_t26f h op round rd
    exact ⟨exists_open_regWrite (exec_fcvti ..) (hconv _ _),
      exists_open_regWrite (exec_fcvtiz ..) (hconv _ _)⟩

end Sys2Proof.Machine
end

section
/-! SUPPORT. The T26F format: the classes of its words, decoding as an order embedding, and rounding (TfpClasses,
TfpMonotone, TfpRounding). A normal word is read through its exponent `e` and its fraction field; the regime, the
exponent field and the fraction width are functions of `e` (R314, the derived row). -/

namespace Sys2Proof

/-! ### Neighbouring fields of a word -/

theorem sumTrits_add (f : Nat → Trit) (m n : Nat) :
    sumTrits f (m + n) = sumTrits (fun k => f (m + k)) n * pow3 m + sumTrits f m := by
  induction n with
  | zero => simp [sumTrits]
  | succ n ih => rw [← Nat.add_assoc, sumTrits, ih, sumTrits, pow3_add]; ring

theorem field_add {w : Nat} (x : Trits w) (lo m n : Nat) :
    x.field lo (m + n) = x.field (lo + m) n * pow3 m + x.field lo m := by
  simp only [Trits.field, sumTrits_add, Nat.add_assoc]

theorem val_eq_field {w : Nat} (x : Trits w) : x.val = x.field 0 w := by
  simp only [Trits.val, Trits.field, Nat.zero_add]

theorem abs_field_le {w : Nat} (x : Trits w) (lo len : Nat) : |x.field lo len| ≤ half3 len :=
  abs_le.2 (field_bounds x lo len)

theorem abs_mul_pow3_add_le {x f : Int} {c p : Nat} (hx : |x| ≤ half3 c) (hf : |f| ≤ half3 p) :
    |x * pow3 p + f| ≤ half3 (p + c) := by
  have hp := pow3_pos p
  have h1 := two_mul_half3 (p + c)
  have h2 := two_mul_half3 c
  have h3 := two_mul_half3 p
  rw [pow3_add] at h1
  rw [abs_le] at *
  constructor <;> nlinarith

/-- The upper of two fields decides the order. -/
theorem mul_pow3_add_lt {x y f g : Int} {p : Nat} (h : x < y) (hf : |f| ≤ half3 p) (hg : |g| ≤ half3 p) :
    x * pow3 p + f < y * pow3 p + g := by
  have hp := pow3_pos p
  have h3 := two_mul_half3 p
  rw [abs_le] at hf hg
  nlinarith

end Sys2Proof

namespace Sys2Proof.Machine

/-! ### Powers of three -/

theorem cast_pow3 (i : Nat) : (pow3 i : Rat) = 3 ^ i := by
  simp [pow3]

theorem pow3q_eq_zpow (e : Int) : pow3q e = 3 ^ e := by
  unfold pow3q
  split
  next h =>
    rw [cast_pow3, ← zpow_natCast, Int.toNat_of_nonneg h]
  next h =>
    rw [cast_pow3, ← zpow_natCast, Int.toNat_of_nonneg (by omega), zpow_neg, one_div, inv_inv]

theorem pow3q_pos (e : Int) : 0 < pow3q e := by
  rw [pow3q_eq_zpow]; positivity

theorem pow3q_succ (e : Int) : pow3q (e + 1) = 3 * pow3q e := by
  rw [pow3q_eq_zpow, pow3q_eq_zpow, zpow_add_one₀ (by norm_num), mul_comm]

theorem pow3q_le {e e' : Int} (h : e ≤ e') : pow3q e ≤ pow3q e' := by
  rw [pow3q_eq_zpow, pow3q_eq_zpow]
  exact zpow_le_zpow_right₀ (by norm_num) h

/-! ### The regime of an exponent (R314) -/

theorem tfpRegime_neg (e : Int) : tfpRegime (-e) = -tfpRegime e := by
  simp only [tfpRegime, val_sign, Int.natAbs_neg, Int.sign_neg, neg_mul]

theorem tfpRegime_natCast (n : Nat) : tfpRegime n =
    if n ≤ 2 then (n : Int) else if n ≤ 5 then 3 else if n ≤ 14 then 4 else if n ≤ 41 then 5
      else if n ≤ 122 then 6 else 7 := by
  rcases n.eq_zero_or_pos with rfl | hn
  · rfl
  · rw [tfpRegime, val_sign, Int.sign_eq_one_of_pos (by omega), one_mul, Int.natAbs_natCast]
    split_ifs <;> rfl

theorem tfpRegime_mono : Monotone tfpRegime := by
  refine monotone_of_odd_of_monotoneOn_nonneg tfpRegime_neg fun a ha b hb hab => ?_
  lift a to Nat using ha
  lift b to Nat using hb
  rw [tfpRegime_natCast, tfpRegime_natCast]
  split_ifs <;> omega

theorem tfpExponent_neg (r x : Int) : tfpExponent (-r) (-x) = -tfpExponent r x := by
  simp only [tfpExponent, val_sign, Int.natAbs_neg, Int.sign_neg]
  ring

/-- The exponents of a regime are those that name it back, and none is beyond ±365 (R314, R318). -/
theorem tfpRegime_tfpExponent_of_nonneg {r x : Int} (h0 : 0 ≤ r) (hr : r ≤ 7) (hx : |x| ≤ half3 (tfpExpTrits r)) :
    tfpRegime (tfpExponent r x) = r ∧ |tfpExponent r x| ≤ 365 := by
  have key : 0 ≤ tfpExponent r x ∧ tfpExponent r x ≤ 365 ∧
      (∀ n : Nat, tfpExponent r x = n → tfpRegime n = r) := by
    interval_cases r <;>
      simp [tfpExpTrits, tfpExponent, sign, tfpBias, half3, tfpRegime_natCast, abs_le] at hx ⊢
    all_goals
      refine ⟨by omega, by omega, fun n hn => ?_⟩
      split_ifs <;> omega
  obtain ⟨hlo, hhi, hregime⟩ := key
  obtain ⟨n, hn⟩ := Int.eq_ofNat_of_zero_le hlo
  exact ⟨hn ▸ hregime n hn, abs_le.2 ⟨by omega, hhi⟩⟩

theorem tfpRegime_tfpExponent {r x : Int} (hr : |r| ≤ 7) (hx : |x| ≤ half3 (tfpExpTrits r)) :
    tfpRegime (tfpExponent r x) = r ∧ |tfpExponent r x| ≤ 365 := by
  obtain ⟨hlo, hhi⟩ := abs_le.1 hr
  rcases le_total 0 r with h0 | h0
  · exact tfpRegime_tfpExponent_of_nonneg h0 hhi hx
  · have hneg := tfpRegime_tfpExponent_of_nonneg (r := -r) (x := -x) (by omega) (by omega)
      (by rwa [abs_neg, tfpExpTrits, Int.natAbs_neg])
    rwa [tfpExponent_neg, tfpRegime_neg, neg_inj, abs_neg] at hneg

/-! ### The fields of a normal word, as functions of its exponent -/

/-- `p`, the fraction trits of the exponent's regime (R313). -/
def tfpFracTrits (e : Int) : Nat := 23 - tfpExpTrits (tfpRegime e)

/-- `x`, the exponent field that stands for the exponent in its regime (R314). -/
def tfpExpField (e : Int) : Int := e - (sign (tfpRegime e)).val * tfpBias (tfpRegime e).natAbs

/-- The anchor with these fields (R313). -/
def tfpAnchor (e frac : Int) : Int := tfpRegime e * pow3 23 + (tfpExpField e * pow3 (tfpFracTrits e) + frac)

/-- The magnitude with these fields (R316). -/
def tfpMag (e frac : Int) : Rat := tfpMagnitude e frac (tfpFracTrits e)

/-- An exponent and a fraction field that fit the widths of the format. -/
structure IsTfpFields (e frac : Int) : Prop where
  exponent : |e| ≤ 365
  regime : |tfpRegime e| ≤ 7
  field : |tfpExpField e| ≤ half3 (tfpExpTrits (tfpRegime e))
  fraction : |frac| ≤ half3 (tfpFracTrits e)

section
variable {e e' frac frac' : Int}

/-- The exponent and the fraction field together fill the 23 trits below the regime. -/
theorem IsTfpFields.abs_low_le (h : IsTfpFields e frac) :
    |tfpExpField e * pow3 (tfpFracTrits e) + frac| ≤ half3 23 := by
  have hwidth : tfpFracTrits e + tfpExpTrits (tfpRegime e) = 23 := by
    have hr := abs_le.1 h.regime
    unfold tfpFracTrits tfpExpTrits
    omega
  exact hwidth ▸ abs_mul_pow3_add_le h.field h.fraction

theorem tfpAnchor_lt_of_exponent (h : IsTfpFields e frac) (h' : IsTfpFields e' frac') (he : e < e') :
    tfpAnchor e frac < tfpAnchor e' frac' := by
  rcases (tfpRegime_mono he.le).lt_or_eq with hr | hr
  · exact mul_pow3_add_lt hr h.abs_low_le h'.abs_low_le
  · have hp : tfpFracTrits e = tfpFracTrits e' := by rw [tfpFracTrits, hr, tfpFracTrits]
    have hx : tfpExpField e < tfpExpField e' := by rw [tfpExpField, hr, tfpExpField]; omega
    rw [tfpAnchor, tfpAnchor, hr, hp]
    exact Int.add_lt_add_left (mul_pow3_add_lt hx (hp ▸ h.fraction) h'.fraction) _

theorem tfpAnchor_lt_of_fraction (h : frac < frac') : tfpAnchor e frac < tfpAnchor e frac' := by
  unfold tfpAnchor
  omega

/-- The factor `1 + f` of a magnitude lies between 1/2 and 3/2 (R315). -/
theorem IsTfpFields.mag_bounds (h : IsTfpFields e frac) :
    pow3q e < 2 * tfpMag e frac ∧ 2 * tfpMag e frac < pow3q (e + 1) := by
  have hp : (0 : Rat) < pow3 (tfpFracTrits e) := by exact_mod_cast pow3_pos _
  have hfrac : |2 * frac| < pow3 (tfpFracTrits e) := by
    have h2 := two_mul_half3 (tfpFracTrits e)
    have hf := abs_le.1 h.fraction
    rw [abs_lt]
    omega
  have hf : |2 * ((frac : Rat) / pow3 (tfpFracTrits e))| < 1 := by
    rw [← mul_div_assoc, abs_div, abs_of_pos hp, div_lt_one hp]
    exact_mod_cast hfrac
  obtain ⟨hlo, hhi⟩ := abs_lt.1 hf
  have he := pow3q_pos e
  rw [pow3q_succ, tfpMag, tfpMagnitude]
  constructor <;> nlinarith

theorem IsTfpFields.mag_pos (h : IsTfpFields e frac) : 0 < tfpMag e frac := by
  linarith [h.mag_bounds.1, pow3q_pos e]

theorem tfpMag_lt_of_exponent (h : IsTfpFields e frac) (h' : IsTfpFields e' frac') (he : e < e') :
    tfpMag e frac < tfpMag e' frac' := by
  linarith [h.mag_bounds.2, h'.mag_bounds.1, pow3q_le (Int.add_one_le_of_lt he)]

theorem tfpMag_lt_of_fraction (h : frac < frac') : tfpMag e frac < tfpMag e frac' := by
  have hp : (0 : Rat) < pow3 (tfpFracTrits e) := by exact_mod_cast pow3_pos _
  have hq : (frac : Rat) < frac' := by exact_mod_cast h
  have hdiv := div_lt_div_of_pos_right hq hp
  have he := pow3q_pos e
  rw [tfpMag, tfpMagnitude, tfpMag, tfpMagnitude]
  nlinarith

/-- The anchor and the magnitude are both ordered by the exponent and then the fraction (R319). -/
theorem tfpMag_lt_of_anchor_lt (h : IsTfpFields e frac) (h' : IsTfpFields e' frac')
    (hlt : tfpAnchor e frac < tfpAnchor e' frac') : tfpMag e frac < tfpMag e' frac' := by
  rcases lt_trichotomy e e' with he | rfl | he
  · exact tfpMag_lt_of_exponent h h' he
  · refine tfpMag_lt_of_fraction (lt_of_not_ge fun hge => ?_)
    rcases hge.lt_or_eq with hf | rfl
    · exact lt_asymm hlt (tfpAnchor_lt_of_fraction hf)
    · exact lt_irrefl _ hlt
  · exact absurd hlt (lt_asymm (tfpAnchor_lt_of_exponent h' h he))

end

/-! ### The words of the format and their classes (R310, R311, R317) -/

theorem isT26f_iff {w : Word} : isT26f w = true ↔ |w.val| ≤ 2 * tfpM := by
  have hval : w.val = sumTrits w.get 26 + (w.get 26).val * pow3 26 := rfl
  have hlow := sumTrits_bounds w.get 26
  rw [show half3 26 = 2 * tfpM by decide] at hlow
  rw [show pow3 26 = 4 * tfpM + 1 by decide] at hval
  rw [isT26f, beq_iff_eq, abs_le, hval]
  unfold tfpM at *
  cases w.get 26 <;> simp <;> omega

/-- The words that decode to a number: Zero and the normal words. -/
def IsTfpFinite (w : Word) : Prop := |w.val| < 2 * tfpM

/-- The words that are none of the three special patterns (R312). -/
structure IsTfpNormal (w : Word) : Prop where
  ne_zero : w.val ≠ 0
  finite : IsTfpFinite w

theorem decodeT26f_of_zero {w : Word} (h : w.val = 0) : decodeT26f w = .zero := if_pos h

theorem decodeT26f_of_inf {w : Word} (h : w.val = 2 * tfpM) : decodeT26f w = .inf := by
  rw [decodeT26f, if_neg (by rw [h]; decide), if_pos h]

theorem decodeT26f_of_nar {w : Word} (h : w.val = -(2 * tfpM)) : decodeT26f w = .nar := by
  rw [decodeT26f, if_neg (by rw [h]; decide), if_neg (by rw [h]; decide), if_pos h]

theorem isT26f_cases {w : Word} (h : isT26f w = true) :
    w.val = 0 ∨ w.val = 2 * tfpM ∨ w.val = -(2 * tfpM) ∨ IsTfpNormal w := by
  rcases (isT26f_iff.1 h).lt_or_eq with hlt | heq
  · by_cases h0 : w.val = 0
    · exact .inl h0
    · exact .inr (.inr (.inr ⟨h0, hlt⟩))
  · rcases (abs_eq (by decide)).1 heq with hinf | hnar
    · exact .inr (.inl hinf)
    · exact .inr (.inr (.inl hnar))

/-! ### Reading a normal word through its anchor (R312–R317) -/

/-- The exponent field of an anchor (R313). -/
def anchorField (a : Trits 26) : Int :=
  a.field (23 - tfpExpTrits (a.field 23 3)) (tfpExpTrits (a.field 23 3))

/-- The exponent of an anchor (R314). -/
def anchorExponent (a : Trits 26) : Int := tfpExponent (a.field 23 3) (anchorField a)

/-- The fraction field of an anchor (R315). -/
def anchorFraction (a : Trits 26) : Int := a.field 0 (tfpFracTrits (anchorExponent a))

section
variable {a : Trits 26}

/-- No anchor of 1 − M to M − 1 has a reserved regime (R317). -/
theorem abs_regime_le (h : |a.val| < tfpM) : |a.field 23 3| ≤ 7 := by
  have hlow := abs_field_le a 0 23
  rw [val_eq_field, field_add a 0 23 3, Nat.zero_add, show pow3 23 = 94143178827 by decide, tfpM, abs_lt] at h
  rw [show half3 23 = 47071589413 by decide, abs_le] at hlow
  rw [abs_le]
  omega

variable (hr : |a.field 23 3| ≤ 7)
include hr

theorem tfpRegime_anchorExponent : tfpRegime (anchorExponent a) = a.field 23 3 :=
  (tfpRegime_tfpExponent hr (abs_field_le ..)).1

theorem tfpFracTrits_anchorExponent : tfpFracTrits (anchorExponent a) = 23 - tfpExpTrits (a.field 23 3) := by
  rw [tfpFracTrits, tfpRegime_anchorExponent hr]

theorem tfpExpField_anchorExponent : tfpExpField (anchorExponent a) = anchorField a := by
  rw [tfpExpField, tfpRegime_anchorExponent hr, anchorExponent, tfpExponent, add_sub_cancel_right]

theorem isTfpFields_anchor : IsTfpFields (anchorExponent a) (anchorFraction a) where
  exponent := (tfpRegime_tfpExponent hr (abs_field_le ..)).2
  regime := tfpRegime_anchorExponent hr ▸ hr
  field := by
    rw [tfpExpField_anchorExponent hr, tfpRegime_anchorExponent hr]
    exact abs_field_le ..
  fraction := abs_field_le ..

/-- The three fields laid end to end are the anchor. -/
theorem tfpAnchor_anchorExponent : tfpAnchor (anchorExponent a) (anchorFraction a) = a.val := by
  have hwidth : 23 - tfpExpTrits (a.field 23 3) + tfpExpTrits (a.field 23 3) = 23 := by
    rw [abs_le] at hr
    unfold tfpExpTrits
    omega
  have hlow := field_add a 0 (23 - tfpExpTrits (a.field 23 3)) (tfpExpTrits (a.field 23 3))
  rw [hwidth, Nat.zero_add] at hlow
  rw [tfpAnchor, tfpRegime_anchorExponent hr, tfpExpField_anchorExponent hr, anchorFraction,
    tfpFracTrits_anchorExponent hr, anchorField, ← hlow, val_eq_field, field_add a 0 23 3, Nat.zero_add]

end

/-- The anchor of a word (R312). -/
def wordAnchor (w : Word) : Trits 26 := enc (|w.val| - tfpM) 26

/-- The magnitude that the anchor of a word stands for. -/
def tfpAbs (w : Word) : Rat := tfpMag (anchorExponent (wordAnchor w)) (anchorFraction (wordAnchor w))

section
variable {w v : Word}

theorem val_wordAnchor (h : IsTfpNormal w) : (wordAnchor w).val = |w.val| - tfpM := by
  obtain ⟨h0, hlt⟩ := h
  have habs := abs_pos.2 h0
  unfold IsTfpFinite at hlt
  have hM : half3 26 = 2 * tfpM := by decide
  rw [wordAnchor, val_enc, wrap_of_bounds] <;> omega

theorem abs_regime_wordAnchor_le (h : IsTfpNormal w) : |(wordAnchor w).field 23 3| ≤ 7 := by
  refine abs_regime_le ?_
  have habs := abs_pos.2 h.ne_zero
  have hlt := h.finite
  unfold IsTfpFinite at hlt
  rw [val_wordAnchor h, abs_lt]
  omega

theorem IsTfpNormal.fields (h : IsTfpNormal w) :
    IsTfpFields (anchorExponent (wordAnchor w)) (anchorFraction (wordAnchor w)) :=
  isTfpFields_anchor (abs_regime_wordAnchor_le h)

theorem IsTfpNormal.anchor (h : IsTfpNormal w) :
    tfpAnchor (anchorExponent (wordAnchor w)) (anchorFraction (wordAnchor w)) = |w.val| - tfpM :=
  (tfpAnchor_anchorExponent (abs_regime_wordAnchor_le h)).trans (val_wordAnchor h)

/-- A word that is no special pattern is normal: the sign of the word times the magnitude of its anchor (R316, R317). -/
theorem decodeT26f_of_normal (h : IsTfpNormal w) : decodeT26f w = .normal (w.val.sign * tfpAbs w) := by
  have hr := abs_regime_wordAnchor_le h
  have hnat : ¬ 7 < ((wordAnchor w).field 23 3).natAbs := by rw [abs_le] at hr; omega
  obtain ⟨h0, hlt⟩ := h
  obtain ⟨hlo, hhi⟩ := abs_lt.1 hlt
  rw [decodeT26f, if_neg h0, if_neg (by omega), if_neg (by omega)]
  refine (if_neg hnat).trans ?_
  rw [val_sign, tfpAbs, tfpMag, anchorFraction, tfpFracTrits_anchorExponent hr]
  rfl

theorem tfpAbs_pos (h : IsTfpNormal w) : 0 < tfpAbs w := h.fields.mag_pos

theorem tfpAbs_lt (hw : IsTfpNormal w) (hv : IsTfpNormal v) (h : |w.val| < |v.val|) : tfpAbs w < tfpAbs v :=
  tfpMag_lt_of_anchor_lt hw.fields hv.fields (by rw [hw.anchor, hv.anchor]; omega)

theorem IsTfpNormal.isT26f (h : IsTfpNormal w) : isT26f w = true := isT26f_iff.2 h.finite.le

theorem IsTfpNormal.of_decode {q : Rat} (ht : Machine.isT26f w = true) (h : decodeT26f w = .normal q) :
    IsTfpNormal w := by
  rcases isT26f_cases ht with hw | hw | hw | hw
  · simp [decodeT26f_of_zero hw] at h
  · simp [decodeT26f_of_inf hw] at h
  · simp [decodeT26f_of_nar hw] at h
  · exact hw

theorem eq_of_decodeT26f_normal {q : Rat} (ht : isT26f w = true) (h : decodeT26f w = .normal q) :
    q = w.val.sign * tfpAbs w :=
  Tfp.normal.inj (h.symm.trans (decodeT26f_of_normal (.of_decode ht h)))

/-! ### Signs and order of decoded values (R319) -/

theorem sign_mul_tfpAbs_pos_iff (h : IsTfpNormal w) : 0 < (w.val.sign : Rat) * tfpAbs w ↔ 0 < w.val := by
  rw [mul_pos_iff_of_pos_right (tfpAbs_pos h), Int.cast_pos, Int.sign_pos_iff]

theorem sign_mul_tfpAbs_ne_zero (h : IsTfpNormal w) : (w.val.sign : Rat) * tfpAbs w ≠ 0 :=
  mul_ne_zero (Int.cast_ne_zero.2 (mt Int.sign_eq_zero_iff_zero.1 h.ne_zero)) (tfpAbs_pos h).ne'

/-- Inverting the trits keeps the anchor. -/
theorem tfpAbs_neg (w : Word) : tfpAbs (mapTrits tritNeg w) = tfpAbs w := by
  rw [tfpAbs, wordAnchor, val_mapTrits_tritNeg, abs_neg]
  rfl

theorem IsTfpFinite.neg (h : IsTfpFinite w) : IsTfpFinite (mapTrits tritNeg w) := by
  rwa [IsTfpFinite, val_mapTrits_tritNeg, abs_neg]

theorem IsTfpNormal.neg (h : IsTfpNormal w) : IsTfpNormal (mapTrits tritNeg w) :=
  ⟨by rw [val_mapTrits_tritNeg]; exact neg_ne_zero.2 h.ne_zero, h.finite.neg⟩

@[simp] theorem Tfp.rat_zero : Tfp.zero.rat = 0 := rfl
@[simp] theorem Tfp.rat_normal (q : Rat) : (Tfp.normal q).rat = q := rfl

theorem rat_decodeT26f (h : IsTfpFinite w) : (decodeT26f w).rat = w.val.sign * tfpAbs w := by
  by_cases h0 : w.val = 0
  · simp [decodeT26f_of_zero h0, h0]
  · rw [decodeT26f_of_normal ⟨h0, h⟩, Tfp.rat_normal]

theorem rat_decodeT26f_neg (h : IsTfpFinite w) :
    (decodeT26f (mapTrits tritNeg w)).rat = -(decodeT26f w).rat := by
  rw [rat_decodeT26f h.neg, rat_decodeT26f h, tfpAbs_neg, val_mapTrits_tritNeg, Int.sign_neg, Int.cast_neg, neg_mul]

theorem rat_decodeT26f_pos (h : IsTfpFinite w) (hw : 0 < w.val) : 0 < (decodeT26f w).rat := by
  rw [rat_decodeT26f h]
  exact (sign_mul_tfpAbs_pos_iff ⟨hw.ne', h⟩).2 hw

theorem rat_decodeT26f_nonneg (h : IsTfpFinite w) (hw : 0 ≤ w.val) : 0 ≤ (decodeT26f w).rat := by
  rcases hw.eq_or_lt with h0 | hpos
  · rw [decodeT26f_of_zero h0.symm, Tfp.rat_zero]
  · exact (rat_decodeT26f_pos h hpos).le

theorem rat_decodeT26f_lt_of_nonneg (hw : IsTfpFinite w) (hv : IsTfpFinite v) (h0 : 0 ≤ w.val) (h : w.val < v.val) :
    (decodeT26f w).rat < (decodeT26f v).rat := by
  rcases h0.eq_or_lt with hzero | hpos
  · rw [decodeT26f_of_zero hzero.symm, Tfp.rat_zero]
    exact rat_decodeT26f_pos hv (by omega)
  · have hpos' : 0 < v.val := hpos.trans h
    have habs := tfpAbs_lt ⟨hpos.ne', hw⟩ ⟨hpos'.ne', hv⟩ (by rwa [abs_of_pos hpos, abs_of_pos hpos'])
    rwa [rat_decodeT26f hw, rat_decodeT26f hv, Int.sign_eq_one_of_pos hpos, Int.sign_eq_one_of_pos hpos', Int.cast_one,
      one_mul, one_mul]

/-- Decoding is strictly increasing on the finite words; below Zero by inverting both words (R319). -/
theorem rat_decodeT26f_lt (hw : IsTfpFinite w) (hv : IsTfpFinite v) (h : w.val < v.val) :
    (decodeT26f w).rat < (decodeT26f v).rat := by
  rcases le_or_gt 0 w.val with hw0 | hw0
  · exact rat_decodeT26f_lt_of_nonneg hw hv hw0 h
  rcases le_or_gt 0 v.val with hv0 | hv0
  · have hpos := rat_decodeT26f_pos hw.neg (by rw [val_mapTrits_tritNeg]; omega)
    rw [rat_decodeT26f_neg hw, neg_pos] at hpos
    exact hpos.trans_le (rat_decodeT26f_nonneg hv hv0)
  · have hlt := rat_decodeT26f_lt_of_nonneg hv.neg hw.neg (by rw [val_mapTrits_tritNeg]; omega)
      (by rw [val_mapTrits_tritNeg, val_mapTrits_tritNeg]; omega)
    rwa [rat_decodeT26f_neg hw, rat_decodeT26f_neg hv, neg_lt_neg_iff] at hlt

theorem rat_decodeT26f_lt_iff (hw : IsTfpFinite w) (hv : IsTfpFinite v) :
    (decodeT26f w).rat < (decodeT26f v).rat ↔ w.val < v.val := by
  refine ⟨fun h => lt_of_not_ge fun hge => ?_, rat_decodeT26f_lt hw hv⟩
  rcases hge.eq_or_lt with heq | hlt
  · rw [val_injective heq] at h
    exact lt_irrefl _ h
  · exact lt_asymm h (rat_decodeT26f_lt hv hw hlt)

end

/-- The sign of a rational, where its numerator is tested. -/
theorem sign_num_eq {q : Rat} {n : Int} (hpos : 0 < q ↔ 0 < n) (hneg : q < 0 ↔ n < 0) : sign q.num = sign n := by
  rw [← Rat.num_pos] at hpos
  rw [← Rat.num_neg] at hneg
  have hzero : q.num = 0 ↔ n = 0 := by omega
  simp only [sign, hneg, hzero]

/-- The flag of a compare: the difference of two finite words has the sign of the difference of their values (R334). -/
theorem sign_rat_sub_num {w v : Word} (hw : IsTfpFinite w) (hv : IsTfpFinite v) :
    sign ((decodeT26f w).rat - (decodeT26f v).rat).num = sign (w.val - v.val) :=
  sign_num_eq (by rw [sub_pos, sub_pos, rat_decodeT26f_lt_iff hv hw])
    (by rw [sub_neg, sub_neg, rat_decodeT26f_lt_iff hw hv])

/-! ### The exponent and the candidate of a magnitude (R321) -/

theorem tfpLeading_eq {e : Int} {m : Rat} (he : |e| ≤ 365) (hlo : pow3q e ≤ 2 * m) (hhi : 2 * m < pow3q (e + 1)) :
    tfpLeading m = e := by
  obtain ⟨h1, h2⟩ := abs_le.1 he
  have hfind : (List.range 731).find? (fun k : Nat => decide (2 * m < pow3q ((k : Int) - 364))) =
      some (e + 365).toNat := by
    rw [List.find?_range_eq_some]
    refine ⟨?_, List.mem_range.2 (by omega), fun j hj => ?_⟩
    · rw [decide_eq_true_iff, show (((e + 365).toNat : Nat) : Int) - 364 = e + 1 by omega]
      exact hhi
    · rw [Bool.not_eq_true', decide_eq_false_iff_not, not_lt]
      exact (pow3q_le (by omega)).trans hlo
  unfold tfpLeading
  simp only [hfind, Option.getD_some]
  omega

theorem tfpCandidate_eq (q : Rat) : tfpCandidate q =
    word ((sign q.num).val * (tfpAnchor (tfpLeading |q|)
      ((|q| / pow3q (tfpLeading |q|) - 1) * (pow3 (tfpFracTrits (tfpLeading |q|)) : Rat)).floor + tfpM)) := by
  rw [tfpAnchor, ← add_assoc]
  rfl

theorem fraction_of_tfpMag (e frac : Int) :
    ((tfpMag e frac / pow3q e - 1) * (pow3 (tfpFracTrits e) : Rat)).floor = frac := by
  have hp : (pow3 (tfpFracTrits e) : Rat) ≠ 0 := by exact_mod_cast (pow3_pos _).ne'
  rw [tfpMag, tfpMagnitude, mul_div_cancel_right₀ _ (pow3q_pos e).ne', add_sub_cancel_left, div_mul_cancel₀ _ hp]
  exact Rat.floor_intCast frac

theorem IsTfpFields.leading {e frac : Int} (h : IsTfpFields e frac) : tfpLeading (tfpMag e frac) = e :=
  tfpLeading_eq h.exponent h.mag_bounds.1.le h.mag_bounds.2

section
variable {w : Word}

theorem sign_num_decode (h : IsTfpNormal w) : sign ((w.val.sign : Rat) * tfpAbs w).num = sign w.val := by
  have hpos := tfpAbs_pos h
  refine sign_num_eq (sign_mul_tfpAbs_pos_iff h) ?_
  rw [← not_le, mul_nonneg_iff_of_pos_right hpos, not_le, Int.cast_lt_zero, Int.sign_neg_iff]

theorem abs_decode (h : IsTfpNormal w) : |(w.val.sign : Rat) * tfpAbs w| = tfpAbs w := by
  rw [abs_mul, ← Int.cast_abs, Int.abs_sign_of_ne_zero h.ne_zero, Int.cast_one, one_mul, abs_of_pos (tfpAbs_pos h)]

/-- The candidate for the value of a normal word is the word. -/
theorem tfpCandidate_decode (h : IsTfpNormal w) : tfpCandidate (w.val.sign * tfpAbs w) = w := by
  rw [tfpCandidate_eq, sign_num_decode h, val_sign, abs_decode h, tfpAbs, h.fields.leading, fraction_of_tfpMag,
    h.anchor, sub_add_cancel, Int.sign_mul_abs, word_val]

end

theorem encodeT26f_decode {w : Word} {q : Rat} (ht : isT26f w = true) (h : decodeT26f w = .normal q) :
    encodeT26f q = some w := by
  have hw : tfpCandidate q = w := by
    rw [eq_of_decodeT26f_normal ht h, tfpCandidate_decode (.of_decode ht h)]
  unfold encodeT26f
  simp only [hw]
  exact if_pos ⟨ht, h⟩

theorem decode_of_encodeT26f {w : Word} {q : Rat} (h : encodeT26f q = some w) :
    isT26f w = true ∧ decodeT26f w = .normal q := by
  simp only [encodeT26f, Option.ite_none_right_eq_some, Option.some.injEq] at h
  obtain ⟨hc, rfl⟩ := h
  exact hc

/-! ### Rounding (R321) -/

theorem isTfpNormal_word {n : Int} (h0 : n ≠ 0) (h : |n| < 2 * tfpM) : IsTfpNormal (word n) := by
  have hb := abs_lt.1 h
  unfold tfpM at hb
  have hval : (word n).val = n := val_word_of_bounds (by unfold H; omega) (by unfold H; omega)
  exact ⟨by rwa [hval], by rwa [IsTfpFinite, hval]⟩

/-- Every answer of `tfp_round` is a T26F word, and none is NaR. -/
theorem word_tfpRounded_spec (r : TfpRounded) :
    isT26f (TfpRounded.word r) = true ∧ decodeT26f (TfpRounded.word r) ≠ .nar := by
  cases r with
  | zero => decide
  | inf => decide
  | normal negative mag =>
    have hlt := mag.isLt
    have hnormal : IsTfpNormal (TfpRounded.word (.normal negative mag)) := by
      rw [TfpRounded.word]
      refine isTfpNormal_word ?_ ?_
      · split <;> omega
      · rw [abs_lt, tfpM]
        split <;> omega
    rw [decodeT26f_of_normal hnormal]
    exact ⟨hnormal.isT26f, Tfp.noConfusion⟩

theorem t26fRound_zero : t26fRound 0 = zeroWord := if_pos rfl

theorem t26fRound_of_encode {q : Rat} {w : Word} (h0 : q ≠ 0) (h : encodeT26f q = some w) : t26fRound q = w := by
  rw [t26fRound, if_neg h0, h]

theorem t26fRound_of_not_encode {q : Rat} (h0 : q ≠ 0) (h : encodeT26f q = none) :
    t26fRound q = TfpRounded.word (Config.tfpRound q) := by
  rw [t26fRound, if_neg h0, h]

theorem t26fRound_decode {w : Word} {q : Rat} (ht : isT26f w = true) (h : decodeT26f w = .normal q) :
    t26fRound q = w := by
  refine t26fRound_of_encode ?_ (encodeT26f_decode ht h)
  rw [eq_of_decodeT26f_normal ht h]
  exact sign_mul_tfpAbs_ne_zero (.of_decode ht h)

theorem t26fRound_spec (q : Rat) : isT26f (t26fRound q) = true ∧ decodeT26f (t26fRound q) ≠ .nar := by
  by_cases h0 : q = 0
  · rw [h0, t26fRound_zero]
    decide
  cases h : encodeT26f q with
  | none =>
    rw [t26fRound_of_not_encode h0 h]
    exact word_tfpRounded_spec _
  | some w =>
    obtain ⟨ht, hw⟩ := decode_of_encodeT26f h
    rw [t26fRound_of_encode h0 h, hw]
    exact ⟨ht, Tfp.noConfusion⟩

/-! ### The obligations -/

/-- Settles O36: each of the four classes has its own values, and a normal word is its sign times a magnitude. -/
theorem tfpClasses : Obligations.TfpClasses := by
  intro w ht
  refine ⟨?zero, ?inf, ?nar, fun q hq => ?sign⟩
  case sign =>
    have hw := IsTfpNormal.of_decode ht hq
    rw [eq_of_decodeT26f_normal ht hq]
    exact ⟨sign_mul_tfpAbs_pos_iff hw, sign_mul_tfpAbs_ne_zero hw⟩
  all_goals
    rcases isT26f_cases ht with h | h | h | h
    · simp [decodeT26f_of_zero h, h]
    · simp [decodeT26f_of_inf h, h, tfpM]
    · simp [decodeT26f_of_nar h, h, tfpM]
    · have hb := abs_lt.1 h.finite
      have h0 := h.ne_zero
      unfold tfpM at hb
      simp [decodeT26f_of_normal h]
      omega

/-- Settles O37: decoding is strictly increasing on the finite words, and inverting the trits keeps the anchor. -/
theorem tfpMonotone : Obligations.TfpMonotone := by
  refine ⟨fun a b x y hta htb hx hy => ?order, fun a x ht hx => ?negate⟩
  case order =>
    have h := rat_decodeT26f_lt_iff (IsTfpNormal.of_decode hta hx).finite (IsTfpNormal.of_decode htb hy).finite
    rw [hx, hy] at h
    exact h.symm
  case negate =>
    rw [decodeT26f_of_normal (IsTfpNormal.of_decode ht hx).neg, tfpAbs_neg, val_mapTrits_tritNeg, Int.sign_neg,
      Int.cast_neg, neg_mul, eq_of_decodeT26f_normal ht hx]

/-- Settles O38: a value that a word denotes is encoded to that word, and every other result is constrained by the
type of `tfp_round`'s answers alone. -/
theorem tfpRounding : Obligations.TfpRounding :=
  ⟨t26fRound_zero, fun _ _ => t26fRound_decode, t26fRound_spec⟩

end Sys2Proof.Machine
end

section
/-! SUPPORT. The floating-point instructions on T26F operands (TfpAddSub, TfpMulDiv, TfpCompare, TfpConversions). -/

namespace Sys2Proof.Machine

/-! ### What the instructions do -/

section
variable {s : State} {rs1 rs2 : Reg}

theorem exec_ficvt (rd rs1 : Reg) (s : State) :
    exec (.ficvt rd rs1) s = .next (s.regWrite rd (t26fRound (s.regVal rs1 : Rat))) := rfl

/-- A result word is written with the FLAGS of its class (R322). -/
theorem State.wroteTfp_tfpWrite (s : State) (rd : Reg) (w : Word) : WroteTfp s (s.tfpWrite rd w (tfpFlags w)) rd w := by
  obtain ⟨hreg, hsign, hcarry, hframe, hadv⟩ := s.tfpWrite_spec rd w (tfpFlags w)
  unfold WroteTfp
  refine ⟨hreg, ?_, hframe, hadv⟩
  rw [hsign, hcarry]
  unfold tfpFlags
  cases decodeT26f w <;> exact ⟨rfl, rfl⟩

/-- An operation on T26F operands writes the word of the decoded operands (R320, R324). -/
theorem State.wroteTfp_tfpBinary (h1 : isT26f (s.reg rs1) = true) (h2 : isT26f (s.reg rs2) = true) (op : TfpOp)
    (f : Tfp → Tfp → Word) (rd : Reg) :
    WroteTfp s (s.tfpBinary op f rd rs1 rs2) rd (f (decodeT26f (s.reg rs1)) (decodeT26f (s.reg rs2))) := by
  simp only [State.tfpBinary, h1, h2, Bool.and_self, if_true]
  exact s.wroteTfp_tfpWrite rd _

theorem State.wroteFlags_setFlags (s : State) (sgn c : Trit) : WroteFlags s (s.setFlags sgn c).advance sgn c.val :=
  ⟨by simp, by simp, s.frameFlags_setFlags_advance _ _, (s.setFlags _ _).advances_advance⟩

/-- FCMP of T26F operands writes the FLAGS of the decoded operands and nothing else (R334). -/
theorem exists_exec_fcmp (h1 : isT26f (s.reg rs1) = true) (h2 : isT26f (s.reg rs2) = true) :
    ∃ t, exec (.fcmp rs1 rs2) s = .next t ∧
      WroteFlags s t (tfpCompare (decodeT26f (s.reg rs1)) (decodeT26f (s.reg rs2))).1
        (tfpCompare (decodeT26f (s.reg rs1)) (decodeT26f (s.reg rs2))).2.val := by
  refine ⟨_, ?_, s.wroteFlags_setFlags _ _⟩
  show execFcmp rs1 rs2 s = _
  simp only [execFcmp, h1, h2, Bool.and_self, if_true]

/-- A conversion that has a value writes it (R336, R337). -/
theorem State.wroteReg_tfpToInt {round : Rat → Int} {n : Int} (h1 : isT26f (s.reg rs1) = true)
    (hn : convertedInt round (decodeT26f (s.reg rs1)) = some n) (hle : |n| ≤ H) (op : TfpOp) (rd : Reg) :
    WroteReg s (s.tfpToInt op round rd rs1) rd n := by
  obtain ⟨hlo, hhi⟩ := abs_le.1 hle
  simp only [State.tfpToInt, h1, if_true, hn]
  exact s.wroteReg_regWrite rd (val_word_of_bounds hlo hhi)

end

/-! ### The compare of finite words (R334) -/

theorem isTfpFinite_of_decode {w : Word} (ht : isT26f w = true) (hinf : decodeT26f w ≠ .inf)
    (hnar : decodeT26f w ≠ .nar) : IsTfpFinite w := by
  rcases isT26f_cases ht with h | h | h | h
  · rw [IsTfpFinite, h]
    decide
  · exact absurd (decodeT26f_of_inf h) hinf
  · exact absurd (decodeT26f_of_nar h) hnar
  · exact h.finite

theorem sign_rat_sub_num_of_classes {w v : Word} (hw : isT26f w = true) (hv : isT26f v = true)
    (hwi : decodeT26f w ≠ .inf) (hwn : decodeT26f w ≠ .nar) (hvi : decodeT26f v ≠ .inf) (hvn : decodeT26f v ≠ .nar) :
    sign ((decodeT26f w).rat - (decodeT26f v).rat).num = sign (w.val - v.val) :=
  sign_rat_sub_num (isTfpFinite_of_decode hw hwi hwn) (isTfpFinite_of_decode hv hvi hvn)

/-! ### The conversions as functions (R336, R337) -/

/-- A decoded magnitude times some power of three is an integer, so its denominator is odd. -/
theorem exists_tfpMag_mul_pow3 (e frac : Int) : ∃ (k : Nat) (n : Int), tfpMag e frac * (pow3 k : Rat) = n := by
  refine ⟨tfpFracTrits e + (-e).toNat, ((pow3 (tfpFracTrits e) + frac) * pow3 e.toNat), ?_⟩
  have hp : (pow3 (tfpFracTrits e) : Rat) ≠ 0 := by exact_mod_cast (pow3_pos _).ne'
  have hscale : pow3q e * (pow3 (-e).toNat : Rat) = pow3 e.toNat := by
    rw [pow3q_eq_zpow, cast_pow3, cast_pow3, ← zpow_natCast, ← zpow_natCast, ← zpow_add₀ (by norm_num)]
    congr 1
    omega
  rw [tfpMag, tfpMagnitude, pow3_add, Int.cast_mul, mul_mul_mul_comm, hscale]
  push_cast
  field_simp

/-- A number whose denominator is a power of three is never half-way between two integers. -/
theorem abs_sub_roundNearest_lt {q : Rat} {k : Nat} {n : Int} (h : q * (pow3 k : Rat) = n) :
    2 * |q - roundNearest q| < 1 := by
  have hlo : (roundNearest q : Rat) ≤ q + 1 / 2 := Int.floor_le _
  have hhi : q + 1 / 2 < (roundNearest q : Rat) + 1 := Int.lt_floor_add_one _
  have hne : (roundNearest q : Rat) ≠ q + 1 / 2 := by
    intro heq
    have hcast : (2 * n + pow3 k : Rat) = 2 * roundNearest q * pow3 k := by rw [heq, ← h]; ring
    have hint : 2 * n + pow3 k = 2 * roundNearest q * pow3 k := by exact_mod_cast hcast
    have hodd := two_mul_half3 k
    have : 2 * roundNearest q * pow3 k = 2 * (roundNearest q * pow3 k) := by ring
    omega
  have hlt := lt_of_le_of_ne hlo hne
  have habs : |q - roundNearest q| < 1 / 2 := abs_lt.2 ⟨by linarith, by linarith⟩
  linarith

theorem abs_roundToZero_le (q : Rat) : |(roundToZero q : Rat)| ≤ |q| := by
  rw [← Int.cast_abs, abs_roundToZero]
  exact Int.floor_le |q|

theorem mul_roundToZero_nonneg (q : Rat) : 0 ≤ q * roundToZero q := by
  have hfloor : 0 ≤ |q|.floor := Int.floor_nonneg.2 (abs_nonneg q)
  have hsign : 0 ≤ q * ((q.num.sign : Int) : Rat) := by
    rcases lt_trichotomy q 0 with hq | rfl | hq
    · rw [Int.sign_eq_neg_one_of_neg (Rat.num_neg.2 hq)]
      push_cast
      linarith
    · simp
    · rw [Int.sign_eq_one_of_pos (Rat.num_pos.2 hq)]
      push_cast
      linarith
  rw [roundToZero, val_sign, Int.cast_mul, ← mul_assoc]
  exact mul_nonneg hsign (by exact_mod_cast hfloor)

theorem convertedInt_normal {round : Rat → Int} {q : Rat} (h : |round q| ≤ H) :
    convertedInt round (.normal q) = some (round q) := if_pos h

/-- Rounding a T26F value to the nearest integer meets no tie (R336). -/
theorem abs_sub_roundNearest_decode_lt {w : Word} {q : Rat} (ht : isT26f w = true) (h : decodeT26f w = .normal q) :
    2 * |q - roundNearest q| < 1 := by
  obtain ⟨k, n, hn⟩ := exists_tfpMag_mul_pow3 (anchorExponent (wordAnchor w)) (anchorFraction (wordAnchor w))
  refine abs_sub_roundNearest_lt (k := k) (n := w.val.sign * n) ?_
  rw [eq_of_decodeT26f_normal ht h, mul_assoc, Int.cast_mul, ← hn, tfpAbs]

/-! ### The obligations -/

/-- Settles O39: each pair of classes takes its branch of the two operations; a sum with Zero is exact, so rounding
gives the pattern of the other operand back. -/
theorem tfpAddSub : Obligations.TfpAddSub := by
  intro rd rs1 rs2 s h1 h2
  have hadd := State.wroteTfp_tfpBinary h1 h2 .fadd tfpAdd rd
  have hsub := State.wroteTfp_tfpBinary h1 h2 .fsub tfpSub rd
  have hround1 {x : Rat} := t26fRound_decode (q := x) h1
  have hround2 {y : Rat} := t26fRound_decode (q := y) h2
  refine ⟨_, _, exec_fadd .., exec_fsub .., ?_⟩
  generalize decodeT26f (s.reg rs1) = a at *
  generalize decodeT26f (s.reg rs2) = b at *
  cases a <;> cases b
  case zero.normal y => simpa [tfpAdd, tfpSub, hround2 rfl] using And.intro hadd hsub
  case normal.zero x => simpa [tfpAdd, tfpSub, hround1 rfl] using And.intro hadd hsub
  all_goals simpa [tfpAdd, tfpSub, t26fRound_zero] using And.intro hadd hsub

/-- Settles O40: each pair of classes takes its branch of the two operations. -/
theorem tfpMulDiv : Obligations.TfpMulDiv := by
  intro rd rs1 rs2 s h1 h2
  have hmul := State.wroteTfp_tfpBinary h1 h2 .fmul tfpMul rd
  have hdiv := State.wroteTfp_tfpBinary h1 h2 .fdiv tfpDiv rd
  refine ⟨_, _, exec_fmul .., exec_fdiv .., ?_⟩
  generalize decodeT26f (s.reg rs1) = a at *
  generalize decodeT26f (s.reg rs2) = b at *
  cases a <;> cases b
  all_goals simpa [tfpMul, tfpDiv, t26fRound_zero] using And.intro hmul hdiv

/-- Settles O41: two finite words compare as their values do, and the other pairs of classes take their branch. (The
model's comparison has the name `tfpCompare`.) -/
theorem tfpCompareFlags : Obligations.TfpCompare := by
  intro rs1 rs2 s h1 h2
  obtain ⟨t, hexec, hwrite⟩ := exists_exec_fcmp h1 h2
  have hsign := sign_rat_sub_num_of_classes h1 h2
  refine ⟨t, hexec, ?_⟩
  generalize decodeT26f (s.reg rs1) = a at *
  generalize decodeT26f (s.reg rs2) = b at *
  cases a <;> cases b
  case zero.zero | zero.normal | normal.zero | normal.normal =>
    rw [← hsign Tfp.noConfusion Tfp.noConfusion Tfp.noConfusion Tfp.noConfusion]
    simpa [tfpCompare] using hwrite
  all_goals simpa [tfpCompare] using hwrite

/-- Settles O42: rounding to nearest meets no tie because the denominator is a power of three, and rounding toward zero
loses less than 1 of the magnitude. -/
theorem tfpConversions : Obligations.TfpConversions := by
  intro rd rs1 s
  refine ⟨⟨_, exec_ficvt .., s.wroteReg_regWrite rd rfl⟩, fun ht hz => ?zero, fun q ht hq => ?nearest,
    fun q ht hq => ?towardZero⟩
  case zero =>
    have hzero (round : Rat → Int) : convertedInt round (decodeT26f (s.reg rs1)) = some 0 := by rw [hz]; rfl
    exact ⟨⟨_, exec_fcvti .., State.wroteReg_tfpToInt ht (hzero _) (by decide) _ rd⟩,
      ⟨_, exec_fcvtiz .., State.wroteReg_tfpToInt ht (hzero _) (by decide) _ rd⟩⟩
  case nearest =>
    refine ⟨roundNearest q, abs_sub_roundNearest_decode_lt ht hq, fun hle => ⟨_, exec_fcvti .., ?_⟩⟩
    exact State.wroteReg_tfpToInt ht (by rw [hq, convertedInt_normal hle]) hle _ rd
  case towardZero =>
    refine ⟨roundToZero q, abs_roundToZero_le q, abs_lt_abs_roundToZero_add_one q, mul_roundToZero_nonneg q,
      fun hle => ⟨_, exec_fcvtiz .., ?_⟩⟩
    exact State.wroteReg_tfpToInt ht (by rw [hq, convertedInt_normal hle]) hle _ rd

end Sys2Proof.Machine
end

section
/-! SUPPORT. The vector extension: lane arithmetic and logic (LaneArithmetic, LaneLogic), reductions (LaneReductions),
permutations (LanePermutations), and the moves between the banks (BankMoves). -/

namespace Sys2Proof.Machine

/-! ### What the instructions do -/

section
variable (rd rs1 : Reg) (vd vs1 vs2 vm : VReg) (s : State)

theorem exec_vadd : exec (.vadd vd vs1 vs2) s =
    .next (s.vregWrite vd (zipTrits (fun a b => clamp (a.val + b.val)) (s.vreg vs1) (s.vreg vs2))) := rfl

theorem exec_vsub : exec (.vsub vd vs1 vs2) s =
    .next (s.vregWrite vd (zipTrits (fun a b => clamp (a.val - b.val)) (s.vreg vs1) (s.vreg vs2))) := rfl

theorem exec_vmul : exec (.vmul vd vs1 vs2) s =
    .next (s.vregWrite vd (zipTrits tritMul (s.vreg vs1) (s.vreg vs2))) := rfl

theorem exec_vcmp : exec (.vcmp vd vs1 vs2) s =
    .next (s.vregWrite vd (zipTrits tritCompare (s.vreg vs1) (s.vreg vs2))) := rfl

theorem exec_vsel : exec (.vsel vd vs1 vs2 vm) s = .next (s.vregWrite vd
    (Trits.ofFn fun i => selectTrit ((s.vreg vs1).get i) ((s.vreg vs2).get i) ((s.vreg vm).get i))) := rfl

theorem exec_vand : exec (.vand vd vs1 vs2) s =
    .next (s.vregWrite vd (zipTrits (tand s.logicMode) (s.vreg vs1) (s.vreg vs2))) := rfl

theorem exec_vor : exec (.vor vd vs1 vs2) s =
    .next (s.vregWrite vd (zipTrits (tor s.logicMode) (s.vreg vs1) (s.vreg vs2))) := rfl

theorem exec_vimpl : exec (.vimpl vd vs1 vs2) s =
    .next (s.vregWrite vd (zipTrits (timpl s.logicMode) (s.vreg vs1) (s.vreg vs2))) := rfl

theorem exec_vnot : exec (.vnot vd vs1) s =
    .next (s.vregWrite vd (mapTrits (tnot s.logicMode) (s.vreg vs1))) := rfl

theorem exec_vcons : exec (.vcons vd vs1 vs2) s =
    .next (s.vregWrite vd (zipTrits tcons (s.vreg vs1) (s.vreg vs2))) := rfl

theorem exec_vacons : exec (.vacons vd vs1 vs2) s =
    .next (s.vregWrite vd (zipTrits tacons (s.vreg vs1) (s.vreg vs2))) := rfl

theorem exec_vredSum : exec (.vredSum rd vs1) s = .next (s.regWrite rd (word (laneSum (s.vreg vs1)))) := rfl

theorem exec_vredSign : exec (.vredSign rd vs1) s =
    .next (s.regWrite rd (tritWord (sign (laneSum (s.vreg vs1))))) := rfl

theorem exec_vredCons : exec (.vredCons rd vs1) s =
    .next (s.regWrite rd (tritWord (consensus (s.vreg vs1)))) := rfl

theorem exec_vredLst : exec (.vredLst rd vs1) s = .next (s.regWrite rd (tritWord (minTrit (s.vreg vs1)))) := rfl

theorem exec_vredMst : exec (.vredMst rd vs1) s = .next (s.regWrite rd (tritWord (maxTrit (s.vreg vs1)))) := rfl

theorem exec_vredAnd : exec (.vredAnd rd vs1) s =
    .next (s.regWrite rd (tritWord (foldTrits (tand s.logicMode) (s.vreg vs1)))) := rfl

theorem exec_vredOr : exec (.vredOr rd vs1) s =
    .next (s.regWrite rd (tritWord (foldTrits (tor s.logicMode) (s.vreg vs1)))) := rfl

theorem exec_vrotl : exec (.vrotl vd vs1 vs2) s =
    .next (s.vregWrite vd (rotateTrits (s.vreg vs1) ((s.vreg vs2).field 0 5))) := rfl

theorem exec_vrotr : exec (.vrotr vd vs1 vs2) s =
    .next (s.vregWrite vd (rotateTrits (s.vreg vs1) (-(s.vreg vs2).field 0 5))) := rfl

theorem exec_vshl : exec (.vshl vd vs1 vs2) s =
    .next (s.vregWrite vd (shiftTrits (s.vreg vs1) ((s.vreg vs2).field 0 5))) := rfl

theorem exec_vshr : exec (.vshr vd vs1 vs2) s =
    .next (s.vregWrite vd (shiftTrits (s.vreg vs1) (-(s.vreg vs2).field 0 5))) := rfl

theorem exec_vrev : exec (.vrev vd vs1) s = .next (s.vregWrite vd (reverseTrits (s.vreg vs1))) := rfl

theorem exec_vshuf : exec (.vshuf vd vs1 vs2) s = .next (s.drawFree.2.vregWrite vd
    (Trits.ofFn fun i => if i < 9 then (s.vreg vs1).get (shuffleLane (s.vreg vs2) i)
      else Config.vshufHighLanes s.drawFree.1 (s.vreg vs1) (s.vreg vs2) i)) := rfl

theorem exec_vmovGv : exec (.vmovGv vd rs1) s = .next (s.vregWrite vd (s.reg rs1)) := rfl

theorem exec_vmovVg : exec (.vmovVg rd vs1) s = .next (s.regWrite rd (s.vreg vs1)) := rfl

theorem exec_vmovVv : exec (.vmovVv vd vs1) s = .next (s.vregWrite vd (s.vreg vs1)) := rfl

theorem exec_vbcast : exec (.vbcast vd rs1) s =
    .next (s.vregWrite vd (Trits.ofFn fun _ => (s.reg rs1).get 0)) := rfl

/-- A lane index that is not negative names the lane to replace (R405). -/
theorem exec_vins_natCast (lane : Nat) (lo : Trits 3) (hi : Trits 8) : exec (.vins vd rs1 lane lo hi) s =
    .next (s.vregWrite vd (put (s.vreg vd) lane ((s.reg rs1).get 0))) :=
  show execVins .. = _ from if_neg (Int.natCast_nonneg lane).not_gt

/-- A lane index that is not negative names the lane to read (R406). -/
theorem exec_vext_natCast (lane : Nat) (lo : Trits 3) (hi : Trits 8) : exec (.vext rd vs1 lane lo hi) s =
    .next (s.regWrite rd (tritWord ((s.vreg vs1).get lane))) :=
  show execVext .. = _ from if_neg (Int.natCast_nonneg lane).not_gt

end

/-! ### The lanes written -/

section
variable (vd : VReg) (s : State)

theorem wroteLanes_ofFn (f : Nat → Trit) : WroteLanes s (s.vregWrite vd (Trits.ofFn f)) vd f :=
  s.wroteLanes_vregWrite vd fun _ => Trits.get_ofFn_lt f

theorem wroteLanes_get (x : Word) : WroteLanes s (s.vregWrite vd x) vd x.get :=
  s.wroteLanes_vregWrite vd fun _ _ => rfl

theorem wroteLanes_zipTrits (f : Trit → Trit → Trit) (x y : Word) :
    WroteLanes s (s.vregWrite vd (zipTrits f x y)) vd (fun i => f (x.get i) (y.get i)) :=
  wroteLanes_ofFn vd s _

theorem wroteLanes_mapTrits (f : Trit → Trit) (x : Word) :
    WroteLanes s (s.vregWrite vd (mapTrits f x)) vd (fun i => f (x.get i)) :=
  wroteLanes_ofFn vd s _

end

/-! ### Lane arithmetic and logic (R353, R360–R370) -/

/-- The clamp saturates every integer, not only the sums of two trits (R353). -/
theorem val_clamp (n : Int) : (clamp n).val = max (-1) (min 1 n) := by
  rw [clamp, val_sign]
  rcases lt_trichotomy n 0 with h | rfl | h
  · rw [Int.sign_eq_neg_one_of_neg h]; omega
  · rfl
  · rw [Int.sign_eq_one_of_pos h]; omega

theorem val_tritMul (a b : Trit) : (tritMul a b).val = a.val * b.val := by cases a <;> cases b <;> rfl

/-- Settles O44: the four instructions zip their lanes with a table whose values are `val_clamp` and `val_tritMul`, and
VSEL follows the mask lane. -/
theorem laneArithmetic : Obligations.LaneArithmetic := by
  refine ⟨fun vd vs1 vs2 s => ⟨_, _, _, _, fun _ => val_clamp _, fun _ => val_clamp _, fun _ => val_tritMul _ _,
      fun _ => rfl, ⟨_, exec_vadd .., wroteLanes_zipTrits ..⟩, ⟨_, exec_vsub .., wroteLanes_zipTrits ..⟩,
      ⟨_, exec_vmul .., wroteLanes_zipTrits ..⟩, ⟨_, exec_vcmp .., wroteLanes_zipTrits ..⟩⟩,
    fun vd vs1 vs2 vm s => ⟨_, exec_vsel .., s.wroteLanes_vregWrite vd fun i hi => ?select⟩⟩
  case select =>
    rw [Trits.get_ofFn_lt _ hi]
    cases (s.vreg vm).get i <;> rfl

/-- Settles O45: each instruction ends in `vregWrite` of the lane-wise word. -/
theorem laneLogic : Obligations.LaneLogic := fun vd vs1 vs2 s =>
  ⟨⟨_, exec_vand .., wroteLanes_zipTrits ..⟩, ⟨_, exec_vor .., wroteLanes_zipTrits ..⟩,
    ⟨_, exec_vimpl .., wroteLanes_zipTrits ..⟩, ⟨_, exec_vnot vd vs1 s, wroteLanes_mapTrits ..⟩,
    ⟨_, exec_vcons .., wroteLanes_zipTrits ..⟩, ⟨_, exec_vacons vd vs1 vs2 s, wroteLanes_zipTrits ..⟩⟩

/-! ### The sum and the consensus of the lanes (R371, R373) -/

theorem laneSum_bounds (x : Word) : -27 ≤ laneSum x ∧ laneSum x ≤ 27 := by
  have hlanes : ∀ n ∈ (List.range 27).map fun i => (x.get i).val, -1 ≤ n ∧ n ≤ 1 := by
    intro n hn
    obtain ⟨i, -, rfl⟩ := List.mem_map.1 hn
    exact (x.get i).val_bounds
  exact ⟨by simpa [laneSum] using List.card_nsmul_le_sum _ (-1) fun n hn => (hlanes n hn).1,
    by simpa [laneSum] using List.sum_le_card_nsmul _ 1 fun n hn => (hlanes n hn).2⟩

theorem val_word_laneSum (x : Word) : (word (laneSum x)).val = laneSum x := by
  have h := laneSum_bounds x
  exact val_word_of_bounds (by unfold H; omega) (by unfold H; omega)

/-- The lanes agree on a trit exactly where one of P and N occurs without the other. -/
theorem consensus_eq (x : Word) :
    consensus x = if hasTrit x .P = hasTrit x .N then .Z else if hasTrit x .P = true then .P else .N := by
  unfold consensus
  cases hasTrit x .P <;> cases hasTrit x .N <;> rfl

section
variable {x : Word}

theorem hasTrit_eq_false {t : Trit} (h : ∀ i, i < 27 → x.get i ≠ t) : hasTrit x t = false := by
  rw [Bool.eq_false_iff]
  intro hx
  obtain ⟨i, hi, ht⟩ := (hasTrit_iff x t).1 hx
  exact h i hi ht

theorem consensus_eq_P (hP : ∃ i, i < 27 ∧ x.get i = .P) (hN : ∀ i, i < 27 → x.get i ≠ .N) : consensus x = .P := by
  rw [consensus_eq, (hasTrit_iff x .P).2 hP, hasTrit_eq_false hN]
  rfl

theorem consensus_eq_N (hN : ∃ i, i < 27 ∧ x.get i = .N) (hP : ∀ i, i < 27 → x.get i ≠ .P) : consensus x = .N := by
  rw [consensus_eq, (hasTrit_iff x .N).2 hN, hasTrit_eq_false hP]
  rfl

theorem consensus_eq_Z (h : (∃ i, i < 27 ∧ x.get i = .P) ↔ ∃ i, i < 27 ∧ x.get i = .N) : consensus x = .Z := by
  rw [← hasTrit_iff, ← hasTrit_iff, ← Bool.eq_iff_iff] at h
  rw [consensus_eq, if_pos h]

end

/-! ### The folds of AND and OR (R376, R377) -/

/-- The lanes of a word in order. -/
def lanes (x : Word) : List Trit := (List.range 27).map x.get

theorem lanes_eq_cons (x : Word) : lanes x = x.get 0 :: (List.range 26).map fun i => x.get (i + 1) := by
  rw [lanes, List.range_succ_eq_map, List.map_cons, List.map_map]
  rfl

theorem mem_lanes_iff (x : Word) (t : Trit) : t ∈ lanes x ↔ hasTrit x t = true := by
  simp [lanes, hasTrit_iff]

theorem foldTrits_eq_foldl (f : Trit → Trit → Trit) (x : Word) :
    foldTrits f x = ((List.range 26).map fun i => x.get (i + 1)).foldl f (x.get 0) := by
  rw [foldTrits, List.foldl_map]

/-- The fold from the first lane is the fold of all lanes from a neutral element. -/
theorem foldTrits_eq_foldl_lanes {f : Trit → Trit → Trit} {e : Trit} (he : ∀ a, f e a = a) (x : Word) :
    foldTrits f x = (lanes x).foldl f e := by
  rw [foldTrits_eq_foldl, lanes_eq_cons, List.foldl_cons, he]

theorem foldTrits_tritMin (x : Word) : foldTrits tritMin x = minTrit x := by
  rw [foldTrits_eq_foldl_lanes (e := .P) (fun a => by cases a <;> rfl), lanes, List.foldl_map, minTrit]

theorem foldTrits_tritMax (x : Word) : foldTrits tritMax x = maxTrit x := by
  rw [foldTrits_eq_foldl_lanes (e := .N) (fun a => by cases a <;> rfl), lanes, List.foldl_map, maxTrit]

theorem tritMin_choice (a b : Trit) : tritMin a b = a ∨ tritMin a b = b :=
  (min_choice a.val b.val).imp (fun h => Trit.val_injective ((val_tritMin a b).trans h))
    fun h => Trit.val_injective ((val_tritMin a b).trans h)

theorem tritMax_choice (a b : Trit) : tritMax a b = a ∨ tritMax a b = b :=
  (max_choice a.val b.val).imp (fun h => Trit.val_injective ((val_tritMax a b).trans h))
    fun h => Trit.val_injective ((val_tritMax a b).trans h)

/-- An operation in which Z is infectious, and which elsewhere chooses between its operands as `g` does, folds to Z as
soon as a Z occurs. -/
theorem foldl_of_infectious {f g : Trit → Trit → Trit} (hf : ∀ a b, f a b = if a = .Z ∨ b = .Z then .Z else g a b)
    (hg : ∀ a b, g a b = a ∨ g a b = b) (l : List Trit) (a : Trit) :
    l.foldl f a = if .Z ∈ a :: l then .Z else l.foldl g a := by
  induction l generalizing a with
  | nil => simp [eq_comm]
  | cons b l ih =>
    rw [List.foldl_cons, List.foldl_cons, ih, hf]
    by_cases hab : a = .Z ∨ b = .Z
    · have hmem : .Z ∈ a :: b :: l := by rcases hab with rfl | rfl <;> simp
      rw [if_pos hab, if_pos List.mem_cons_self, if_pos hmem]
    · obtain ⟨ha, hb⟩ := not_or.1 hab
      have hgab : g a b ≠ .Z := by rcases hg a b with h | h <;> rw [h] <;> assumption
      rw [if_neg hab]
      exact if_congr (by simp [Ne.symm ha, Ne.symm hb, hgab.symm]) rfl rfl

/-- A connective that chooses between its operands as `g` does, but for an infectious Z in B3, folds as `g` does, but for
a Z lane in B3. -/
theorem foldTrits_connective {op : LogicMode → Trit → Trit → Trit} {g : Trit → Trit → Trit}
    (hop : ∀ {m}, m ≠ .b3 → ∀ a b, op m a b = g a b)
    (hb3 : ∀ a b, op .b3 a b = if a = .Z ∨ b = .Z then .Z else g a b)
    (hg : ∀ a b, g a b = a ∨ g a b = b) (m : LogicMode) (x : Word) :
    foldTrits (op m) x = if m = .b3 ∧ hasTrit x .Z = true then .Z else foldTrits g x := by
  by_cases hm : m = .b3
  · subst hm
    rw [foldTrits_eq_foldl, foldl_of_infectious hb3 hg, ← lanes_eq_cons, ← foldTrits_eq_foldl]
    exact if_congr (by rw [mem_lanes_iff, eq_self, true_and]) rfl rfl
  · rw [funext₂ (hop hm), if_neg fun h => hm h.1]

/-- The fold of AND is the least lane, but for a Z lane in B3 (R376). -/
theorem foldTrits_tand (m : LogicMode) (x : Word) :
    foldTrits (tand m) x = if m = .b3 ∧ hasTrit x .Z = true then .Z else minTrit x := by
  rw [foldTrits_connective tand_eq_tritMin tand_b3 tritMin_choice, foldTrits_tritMin]

/-- The fold of OR is the greatest lane, but for a Z lane in B3 (R377). -/
theorem foldTrits_tor (m : LogicMode) (x : Word) :
    foldTrits (tor m) x = if m = .b3 ∧ hasTrit x .Z = true then .Z else maxTrit x := by
  rw [foldTrits_connective tor_eq_tritMax tor_b3 tritMax_choice, foldTrits_tritMax]

/-- Settles O46: each reduction ends in `regWrite` of the word of its trit or sum; the folds of AND and OR are the
extreme lanes where no Z lane is infectious. -/
theorem laneReductions : Obligations.LaneReductions := by
  intro rd vs1 s
  obtain ⟨hleast, hmin⟩ := minTrit_spec (s.vreg vs1)
  obtain ⟨hgreatest, hmax⟩ := maxTrit_spec (s.vreg vs1)
  have hwrote (t : Trit) := s.wroteReg_regWrite rd (val_tritWord t)
  refine ⟨⟨_, exec_vredSum .., s.wroteReg_regWrite rd (val_word_laneSum _)⟩, ⟨_, exec_vredSign .., hwrote _⟩,
    ⟨_, fun hP hN => ?allP, fun hN hP => ?allN, fun h => ?tie, _, exec_vredCons .., hwrote _⟩,
    _, _, fun i hi => ⟨hleast i hi, hgreatest i hi⟩, hmin, hmax, ⟨_, exec_vredLst .., hwrote _⟩,
    ⟨_, exec_vredMst .., hwrote _⟩, _, _, fun hb3 hZ => ?infectious, fun h => ?extreme,
    ⟨_, exec_vredAnd .., hwrote _⟩, ⟨_, exec_vredOr .., hwrote _⟩⟩
  case allP => rw [consensus_eq_P hP hN, Trit.val_P]
  case allN => rw [consensus_eq_N hN hP, Trit.val_N]
  case tie => rw [consensus_eq_Z h, Trit.val_Z]
  case infectious =>
    have hcase : s.logicMode = .b3 ∧ hasTrit (s.vreg vs1) .Z = true := ⟨hb3, (hasTrit_iff _ _).2 hZ⟩
    rw [foldTrits_tand, foldTrits_tor, if_pos hcase, if_pos hcase]
    exact ⟨Trit.val_Z, Trit.val_Z⟩
  case extreme =>
    have hcase : ¬ (s.logicMode = .b3 ∧ hasTrit (s.vreg vs1) .Z = true) := fun ⟨hb3, hZ⟩ =>
      h.elim (· hb3) fun hnone => by simp [hasTrit_eq_false hnone] at hZ
    rw [foldTrits_tand, foldTrits_tor, if_neg hcase, if_neg hcase]
    exact ⟨rfl, rfl⟩

/-! ### Permutations (R380–R386) -/

section
variable (x : Word) {n : Int} {i j : Nat}

/-- A rotation takes lane `i` to lane `(i + n) mod 27` (R380). -/
theorem get_rotateTrits_add_mod (n : Int) (hi : i < 27) :
    (rotateTrits x n).get (((i : Int) + n) % 27).toNat = x.get i := by
  rw [get_rotateTrits x n (by omega)]
  congr 1
  omega

/-- A shift takes lane `i` to lane `i + n`, where there is one (R382). -/
theorem get_shiftTrits_of_eq (hi : i < 27) (hj : j < 27) (h : (j : Int) = i + n) :
    (shiftTrits x n).get j = x.get i := by
  rw [get_shiftTrits x n hj, if_pos (by omega)]
  congr 1
  omega

/-- A lane that no lane is shifted to is Z (R382). -/
theorem get_shiftTrits_of_ne (hj : j < 27) (h : ∀ i : Nat, i < 27 → (j : Int) ≠ i + n) :
    (shiftTrits x n).get j = .Z := by
  rw [get_shiftTrits x n hj, if_neg]
  intro hrange
  exact h ((j : Int) - n).toNat (by omega) (by omega)

end

/-- VSHUF draws a number for the open lanes and then writes `vd` as any other instruction (R385). -/
theorem exists_vshuf (vd vs1 vs2 : VReg) (s : State) :
    ∃ t, exec (.vshuf vd vs1 vs2) s = .next t ∧ FrameVreg { s with freeCount := s.freeCount + 1 } t vd ∧
      Advances s t ∧ ∀ i, i < 9 → (t.vreg vd).get i = (s.vreg vs1).get (shuffleLane (s.vreg vs2) i) := by
  obtain ⟨hlanes, hframe, hadv⟩ := wroteLanes_ofFn vd s.drawFree.2 fun i =>
    if i < 9 then (s.vreg vs1).get (shuffleLane (s.vreg vs2) i)
    else Config.vshufHighLanes s.drawFree.1 (s.vreg vs1) (s.vreg vs2) i
  exact ⟨_, exec_vshuf .., hframe, hadv, fun i hi => (hlanes i (by omega)).trans (if_pos hi)⟩

/-- Settles O47: a rotation or shift to the right is one to the left by the negated amount. -/
theorem lanePermutations : Obligations.LanePermutations := by
  refine ⟨fun vd vs1 vs2 s => ⟨_, _, _, _,
      fun i hi => ⟨get_rotateTrits_add_mod _ _ hi, get_rotateTrits_add_mod _ _ hi⟩,
      fun i j hi hj => ⟨get_shiftTrits_of_eq _ hi hj, get_shiftTrits_of_eq _ hi hj⟩,
      fun j hj => ⟨get_shiftTrits_of_ne _ hj, get_shiftTrits_of_ne _ hj⟩,
      ⟨_, exec_vrotl .., wroteLanes_get ..⟩, ⟨_, exec_vrotr .., wroteLanes_get ..⟩,
      ⟨_, exec_vshl .., wroteLanes_get ..⟩, ⟨_, exec_vshr .., wroteLanes_get ..⟩,
      ⟨_, exec_vrev .., wroteLanes_ofFn ..⟩⟩,
    exists_vshuf⟩

/-! ### Moves between the banks (R401–R407) -/

/-- Settles O48: each move ends in `vregWrite` or `regWrite`; a lane index of 0..13 is not negative. -/
theorem bankMoves : Obligations.BankMoves := fun rd rs1 vd vs1 lane lo hi s _ =>
  ⟨⟨_, exec_vmovGv .., wroteLanes_get ..⟩, ⟨_, exec_vmovVg .., s.wroteReg_regWrite rd rfl⟩,
    ⟨_, exec_vmovVv .., wroteLanes_get ..⟩, ⟨_, exec_vbcast .., wroteLanes_ofFn ..⟩,
    ⟨_, exec_vins_natCast rs1 vd s lane lo hi, wroteLanes_ofFn ..⟩,
    ⟨_, exec_vext_natCast rd vs1 s lane lo hi, s.wroteReg_regWrite rd (val_tritWord _)⟩⟩

end Sys2Proof.Machine
end

section
/-! SUPPORT. Taking an exception at each depth (OuterEntry, NestedEntry, MachineCheckReset), the return from it
(EntryThenReturn), and the step that runs the fetched word (StepRunsDecoded, PlacedWordRuns). -/

namespace Sys2Proof.Machine

/-! ### Entry at depths Z and P (R431, R432) -/

/-- STATUS after an entry to depth `d`, trit by trit: mode and ie are masked, lx and t[4..26] are kept. -/
theorem enterStatus_spec (v : Word) (d : Trit) :
    (enterStatus v d).get 0 = .N ∧ (enterStatus v d).get 1 = .N ∧ (enterStatus v d).get 3 = d ∧
      ∀ i, i ≠ 0 → i ≠ 1 → i ≠ 3 → (enterStatus v d).get i = v.get i := by
  refine ⟨get_enterStatus v d 0 (by decide), get_enterStatus v d 1 (by decide), get_enterStatus v d 3 (by decide),
    fun i h0 h1 h3 => ?_⟩
  by_cases hi : i < 27
  · rw [get_enterStatus v d i hi, if_neg h3, if_neg h1, if_neg h0]
  · rw [Trits.get_of_le _ (by omega), Trits.get_of_le _ (by omega)]

/-- Settles O27: at depth Z the entry is `enterMain`. -/
theorem outerEntry : Obligations.OuterEntry := fun s code tval epc hd =>
  ⟨_, State.trap_of_depth_Z hd code tval epc, rfl, enterStatus_spec s.status .P⟩

/-- Settles O28: at depth P the entry is `enterNested`. -/
theorem nestedEntry : Obligations.NestedEntry := fun s code tval epc hd =>
  ⟨_, State.trap_of_depth_P hd code tval epc, rfl, enterStatus_spec s.status .N⟩

/-! ### Entry and return (R443) -/

/-- Settles O32: the entry saves pc and STATUS in the bank that the depth it leaves behind names, and IRET restores
that bank. -/
theorem entryThenReturn : Obligations.EntryThenReturn := by
  intro s code tval epc hd hl
  rcases s.trap_cases code tval epc with ⟨-, ht⟩ | ⟨-, ht⟩ | ⟨hN, -⟩
  · obtain ⟨hreturn, -, -⟩ := returnFromException (s.enterMain code tval epc)
    have hdepth : (s.enterMain code tval epc).status.get 3 = .P := get_enterStatus s.status .P 3 (by decide)
    rw [ht]
    exact ⟨_, hreturn hdepth hl, rfl, rfl, rfl, rfl, rfl, rfl, rfl⟩
  · obtain ⟨-, hreturn, -⟩ := returnFromException (s.enterNested code tval epc)
    have hdepth : (s.enterNested code tval epc).status.get 3 = .N := get_enterStatus s.status .N 3 (by decide)
    rw [ht]
    exact ⟨_, hreturn hdepth hl, rfl, rfl, rfl, rfl, rfl, rfl, rfl⟩
  · exact absurd hN hd

/-! ### The machine-check reset (R436) -/

theorem lineWord_eq_zeroWord {f : Nat → Bool} (h : ∀ k, k < 9 → f k = false) : lineWord f = zeroWord := by
  refine Trits.ext_get fun i _ => ?_
  rw [get_lineWord, get_zeroWord, if_neg]
  rintro ⟨hi, hf⟩
  simp [h i hi] at hf

/-- With every row of R47 at its value, each CSR but STATUS, MPU_CFG and the sampled IPENDING reads as zero. -/
theorem State.AtResetValues.val_csrRead {t : State} (h : t.AtResetValues) {c : Csr} (hstatus : c ≠ .status)
    (hipending : c ≠ .ipending) (hcfg : c ≠ .mpuCfg) : (t.csrRead c).1.val = 0 := by
  obtain ⟨hepc, hecause, hevec, hesave, hetval⟩ := h.mainBank
  obtain ⟨hepc2, hecause2, hesave2, hetval2⟩ := h.frame2Bank
  cases c with
  | status => exact absurd rfl hstatus
  | ipending => exact absurd rfl hipending
  | mpuCfg => exact absurd rfl hcfg
  | pc => exact h.pc
  | lmode => exact h.lmode
  | flags => rw [t.val_csrRead_flags, h.flagSign, h.flagCarry]; rfl
  | epc => exact hepc
  | ecause => exact hecause
  | evec => exact hevec
  | esave => exact hesave
  | etval => exact hetval
  | epc2 => exact hepc2
  | ecause2 => exact hecause2
  | esave2 => exact hesave2
  | etval2 => exact hetval2
  | mpuSelect => rw [t.val_csrRead_mpuSelect, h.mpuSelect]; rfl
  | mpuBase =>
    obtain ⟨-, hbase, -⟩ := h.mpu t.mpuSelect
    exact hbase
  | ienable =>
    have hclear : lineWord (lineBit t.ienable) = zeroWord :=
      lineWord_eq_zeroWord fun k hk => (lineBit_of_lt t.ienable hk).trans (h.ienable ⟨k, hk⟩)
    rw [State.csrRead, hclear, val_zeroWord]
  | ipriority => exact h.ipriority
  | reserved k => exact val_zeroWord

/-- Whichever region is selected, MPU_CFG reads as valid = N with every other field zero, and MPU_BASE as zero (D29). -/
theorem State.AtResetValues.val_csrRead_region {t : State} (h : t.AtResetValues) (i : Fin 9) :
    ({ t with mpuSelect := i }.csrRead .mpuCfg).1.val = -2187 ∧
      ({ t with mpuSelect := i }.csrRead .mpuBase).1.val = 0 := by
  obtain ⟨hvalid, hbase, hr, hw, hx, hsize⟩ := h.mpu i
  refine ⟨?_, hbase⟩
  show (t.mpu[i].config).val = -2187
  rw [MpuDesc.val_config, hvalid, hr, hw, hx, hsize]
  rfl

/-- Settles O29: at depth N the entry is the machine-check reset, and what CSRs read follows from the reset values. -/
theorem machineCheckReset : Obligations.MachineCheckReset := by
  intro s code tval epc hd
  have hreset := s.atResetValues_machineCheckReset
  exact ⟨_, State.trap_of_depth_N hd code tval epc, hreset, rfl, rfl, fun c => hreset.val_csrRead, hreset.status,
    hreset.val_csrRead_region⟩

/-! ### The step that runs the fetched word (R440) -/

/-- Settles O52: the fetch reads the word at pc, and sampling the lines takes the head of the feed only. -/
theorem stepRunsDecoded : Obligations.StepRunsDecoded := by
  intro s i hh hl hi hacc hdec
  obtain ⟨hkind, hmpu⟩ := hacc
  have hpc := s.sampleLines_pc
  have hfetch : s.sampleLines.2.fetch = .ok (s.sampleLines.2.mem.read s.sampleLines.2.pc.val) :=
    State.fetch_eq (by rwa [hpc]) (by rwa [hpc])
  rw [step_eq hh hl hi, hfetch, State.sampleLines_mem, hpc, State.sampleLines_eq]
  show exec (decode (s.mem.read s.pc.val)) _ = _
  rw [hdec]

/-- The next fetch reads the placed word (log entry 1). -/
theorem State.read_withFetchWord {s : State} (h : s.mem.wf = true) (nbits w : Nat) :
    (s.withFetchWord nbits w).mem.read s.pc.val = wordOfNat w :=
  Memory.read_write_same h s.pc.val (wordOfNat w)

section
variable (s : State) (nbits w : Nat)

theorem canAccess_withFetchWord (a : Int) (ty : Access) :
    CanAccess (s.withFetchWord nbits w) a ty ↔ CanAccess s a ty := Iff.rfl

theorem State.interruptLine_withFetchWord (lines : IrqLines) :
    (s.withFetchWord nbits w).interruptLine lines = s.interruptLine lines := rfl

end

/-- With an empty feed no line is asserted and the sample changes nothing (log entry 4). -/
theorem State.sampleLines_of_empty {s : State} (h : s.irqFeed = []) :
    s.sampleLines = (Vector.replicate 9 false, s) := by
  rw [State.sampleLines, h]

/-- The reset state can fetch at its pc: there is memory, and no MPU region is active (R47). -/
theorem canAccess_reset_fetch : CanAccess State.reset State.reset.pc.val .fetch := by
  unfold CanAccess
  decide

/-- Settles O53: placing a word changes memory only, so the reset state's first fetch goes through and reads it. -/
theorem placedWordRuns : Obligations.PlacedWordRuns := by
  intro nbits w
  have hsample := State.sampleLines_of_empty (s := State.reset.withFetchWord nbits w) rfl
  have hread := State.read_withFetchWord Memory.wf_reset nbits w
  have hline : State.reset.interruptLine (Vector.replicate 9 false) = none := by decide
  rw [stepRunsDecoded (State.reset.withFetchWord nbits w) (decode (wordOfNat w)) rfl statusLegal_reset,
    ← State.sampleLines_eq, hsample]
  · rw [hsample, State.interruptLine_withFetchWord, hline]
  · rw [hsample]
    exact (canAccess_withFetchWord State.reset nbits w _ _).2 canAccess_reset_fetch
  · exact congrArg decode hread

end Sys2Proof.Machine
end
